-- ==== Sys2Proof/Word.lean ====
section
/-! DEFINITION. The words of the block: bytes, the 16-bit keystream and checksum word, the 64-bit
counters and operand field, and the 72-bit command word (30_encoding.md R97, R98). -/

namespace Sys2Proof

/-- One cell of a buffer (20_memory.md R60). -/
abbrev Byte := BitVec 8

/-- The width of KS, CS, SUM and of a key (10_state.md R21, R24, R36). -/
abbrev Word16 := BitVec 16

/-- The width of the counters, the sizes and the operand field `arg` (10_state.md R22, R27; 30_encoding.md R97). -/
abbrev Word64 := BitVec 64

/-- A command word: `cmd[71:64]` is `op`, `cmd[63:0]` is `arg` (30_encoding.md R97). -/
abbrev CmdWord := BitVec 72

end Sys2Proof
end

