-- ==== Sys2Proof/Config.lean ====
section
/-! DEFINITION. What an implementation fixes (00_scope.md R8, R9) and the free values: constants
with no body, which nothing in Lean can evaluate. -/

namespace Sys2Proof

/-- The three bytes of the "fixed magic/version tag" (00_scope.md R9; 30_encoding.md R90). -/
structure Magic where
  m0 : Byte
  m1 : Byte
  m2 : Byte
  deriving DecidableEq, Repr, Inhabited

/-- What a lone escape byte at the end of compressed input does (00_scope.md R9; 92 D8; 93 U3). -/
inductive TrailingEscape where
  /-- It raises TruncatedEscapeError: the spec's default. -/
  | error
  /-- It is emitted as one byte 0x07. -/
  | literal
  deriving DecidableEq, Repr, Inhabited

namespace Config

/-- MAGIC[0..2], `OPEN`: the spec gives no value (92 D30, 93 U12). Log 11, UNVERIFIED, safe. -/
opaque magic : Magic

/-- MAX_STREAMS less one: which of the legal values 1, 2 and 3 an implementation has is its own
(R9, 92 D31). Log 12, safe. -/
opaque streamsPastFirst : Fin 3

/-- MAX_STREAMS, the bound DECODE gives the chain analyzer (R9, 92 D31). -/
def maxStreams : Nat := streamsPastFirst.val + 1

/-- TRAILING_ESCAPE, which each implementation fixes (R9, R192, 92 D8, 93 U3). Log 13, safe. -/
opaque trailingEscape : TrailingEscape

/-- A value the spec leaves unspecified (10_state.md R30, R41; 93 U4, U6, U7, U9, U15) or cannot
state: the first argument numbers the draw (State.free), the second the place in that draw.
DESIGN CHOICE, log 6, safe. -/
opaque freeValue : Nat → Nat → Word64

/-- The escape sentinel byte (R8). -/
def sentinel : Byte := 0x07

/-- The frame alignment, in bytes (R8, R69). -/
def frameAlign : Nat := 4096

/-- The header's fixed part, in bytes (R8, R90, R121). -/
def fixedHeaderLen : Nat := 20

/-- The header's dictionary field, in bytes (R8, R92). -/
def dictLen : Nat := 16

/-- The header's checksum field, in bytes (R8, R93). -/
def checksumLen : Nat := 2

end Config

end Sys2Proof
end

