-- ==== Sys2Proof/Syntax.lean ====
section
/-! DEFINITION. The instructions: one constructor for each row of spec/opcode_table.json, the 21
commands of 30_encoding.md R97 and the three tokens of R94 to R96, and what the command port carries. -/

namespace Sys2Proof

/-- One constructor per row of spec/opcode_table.json, in its order. -/
inductive Instr where
  /-- NOP, format Z (R260). -/
  | nop
  /-- RDREG r, format R (R262). -/
  | rdreg (r : BitVec 8)
  /-- RESET, format Z (R261). -/
  | reset
  /-- KS.LOAD k, format H (R159). -/
  | ksLoad (k : Word16)
  /-- KS.STEP, format Z (R160). -/
  | ksStep
  /-- DEC.START key, format H (R176). -/
  | decStart (key : Word16)
  /-- DEC.BYTE b, format B (R177). -/
  | decByte (b : Byte)
  /-- CS.CLEAR, format Z (R142). -/
  | csClear
  /-- CS.BYTE b, format B (R143). -/
  | csByte (b : Byte)
  /-- CS.VERIFY x, format H (R145). -/
  | csVerify (x : Word16)
  /-- RLE.DICT i, v, format D (R195). -/
  | rleDict (i : BitVec 4) (v : Byte)
  /-- RLE.START cap, format Q (R196). -/
  | rleStart (cap : Word64)
  /-- RLE.BYTE b, format B (R197). -/
  | rleByte (b : Byte)
  /-- RLE.END, format Z (R198). -/
  | rleEnd
  /-- FJ2.BEAT b0, b1, b2, e, format F2 (R240). -/
  | fj2Beat (b0 b1 b2 e : Byte)
  /-- FJ3.BEAT f0, f1, f2, e, s, format F3 (R241). -/
  | fj3Beat (f0 f1 f2 e sgn : Byte)
  /-- HDR.PARSE.0 off, format Q (R130). -/
  | hdrParse0 (off : Word64)
  /-- HDR.PARSE.1 off, format Q (R130). -/
  | hdrParse1 (off : Word64)
  /-- HDR.PARSE.2 off, format Q (R130). -/
  | hdrParse2 (off : Word64)
  /-- CHAIN.SCAN m, format B (R222). -/
  | chainScan (m : Byte)
  /-- DECODE key, format H (R258). -/
  | decode (key : Word16)
  /-- Token LIT b, 1 byte (R94, R187). -/
  | lit (b : Byte)
  /-- Token ESC.LIT, the bytes 07 00 (R95, R188). -/
  | escLit
  /-- Token ESC.RUN, 07 then count and index nibbles (R96, R189). -/
  | escRun (count index : BitVec 4)
  deriving DecidableEq, Repr

/-- One thing the host has put on the block's port: a 72-bit command word (R97), or compressed bytes
for the decompressor, read token by token (R101). The second is the model's own: log 2, DESIGN CHOICE. -/
inductive Request where
  | command (w : CmdWord)
  | stream (bytes : List Byte)
  deriving DecidableEq, Repr

end Sys2Proof
end

