-- ==== Sys2Proof/WellFormed.lean ====
section
/-! DEFINITION. The instructions the encodings can express (30_encoding.md R94 to R98). Every operand
of a command has its field's own width, so only the two tokens with an excluded value need a check. -/

namespace Sys2Proof

/-- LIT's byte is not the sentinel (R94); ESC.RUN's control byte is not 0x00, which is ESC.LIT (R96). -/
def Instr.wf : Instr → Bool
  | .lit b => b != Config.sentinel
  | .escRun count index => !(count == 0 && index == 0)
  | .nop | .rdreg _ | .reset | .ksLoad _ | .ksStep | .decStart _ | .decByte _ | .csClear | .csByte _
  | .csVerify _ | .rleDict _ _ | .rleStart _ | .rleByte _ | .rleEnd | .fj2Beat _ _ _ _
  | .fj3Beat _ _ _ _ _ | .hdrParse0 _ | .hdrParse1 _ | .hdrParse2 _ | .chainScan _ | .decode _
  | .escLit => true

/-- An instruction some encoding stands for. -/
abbrev WellFormed (i : Instr) : Prop := i.wf = true

end Sys2Proof
end

