-- ==== Sys2Proof/Decode.lean ====
section
/-! DEFINITION. Decoding and encoding of command words (30_encoding.md R97 to R99) and of the tokens
of the compressed stream (R94 to R96, R101), and the assembler's text of a command (R102). -/

namespace Sys2Proof

/-- Why bits are no instruction. -/
inductive DecodeError where
  /-- The opcode byte is not in the table of R97 (R99). -/
  | unassignedOpcode
  /-- A reserved bit of `arg` is not zero (R98, R99). -/
  | reservedBits
  /-- The compressed stream ends with a lone 0x07 (R101, R192). -/
  | truncatedEscape
  /-- There is no byte to read a token from. -/
  | noBytes
  /-- Bytes remain after the one token that was asked for. -/
  | trailingBytes
  deriving DecidableEq, Repr

/-- `cmd[71:64]` (R97). -/
def opField (w : CmdWord) : BitVec 8 := w.extractLsb' 64 8

/-- `cmd[63:0]` (R97). -/
def argField (w : CmdWord) : Word64 := w.extractLsb' 0 64

/-- `arg[8k+7:8k]`, the k-th operand byte of formats R, B, D, F2 and F3 (R98). -/
def argByte (arg : Word64) (k : Nat) : Byte := arg.extractLsb' (8 * k) 8

/-- The bits of `arg` from `n` up are zero: the must-be-zero check of a format whose fields fill the
low `n` bits (R98, R99). -/
def reservedClear (arg : Word64) (n : Nat) : Bool := arg >>> n == 0

/-- The instruction of a format whose fields fill the low `n` bits of `arg`, or the refusal of R99. -/
def withReserved (arg : Word64) (n : Nat) (i : Instr) : Except DecodeError Instr :=
  if reservedClear arg n then .ok i else .error .reservedBits

/-- The command of an opcode byte and an operand field (R97, R98), or why they are illegal (R99). -/
def decodeFields (op : BitVec 8) (arg : Word64) : Except DecodeError Instr :=
  match op.toNat with
  | 0x00 => withReserved arg 0 .nop
  | 0x01 => withReserved arg 8 (.rdreg (argByte arg 0))
  | 0x02 => withReserved arg 0 .reset
  | 0x10 => withReserved arg 16 (.ksLoad (arg.extractLsb' 0 16))
  | 0x11 => withReserved arg 0 .ksStep
  | 0x20 => withReserved arg 16 (.decStart (arg.extractLsb' 0 16))
  | 0x21 => withReserved arg 8 (.decByte (argByte arg 0))
  | 0x30 => withReserved arg 0 .csClear
  | 0x31 => withReserved arg 8 (.csByte (argByte arg 0))
  | 0x32 => withReserved arg 16 (.csVerify (arg.extractLsb' 0 16))
  | 0x40 => withReserved arg 12 (.rleDict (arg.extractLsb' 8 4) (argByte arg 0))
  | 0x41 => .ok (.rleStart arg)
  | 0x42 => withReserved arg 8 (.rleByte (argByte arg 0))
  | 0x43 => withReserved arg 0 .rleEnd
  | 0x50 => withReserved arg 32
      (.fj2Beat (argByte arg 0) (argByte arg 1) (argByte arg 2) (argByte arg 3))
  | 0x51 => withReserved arg 40
      (.fj3Beat (argByte arg 0) (argByte arg 1) (argByte arg 2) (argByte arg 3) (argByte arg 4))
  | 0x60 => .ok (.hdrParse0 arg)
  | 0x61 => .ok (.hdrParse1 arg)
  | 0x62 => .ok (.hdrParse2 arg)
  | 0x64 => withReserved arg 8 (.chainScan (argByte arg 0))
  | 0x68 => withReserved arg 16 (.decode (arg.extractLsb' 0 16))
  | _ => .error .unassignedOpcode

/-- The command a 72-bit word stands for (R97), or why it is illegal (R99). -/
def decodeCommand (w : CmdWord) : Except DecodeError Instr := decodeFields (opField w) (argField w)

/-- The two-byte token 07 c: ESC.LIT when `c` is 0x00, tested first, else ESC.RUN (R95, R96, R101). -/
def decodeEscape (c : Byte) : Instr :=
  if c = 0x00 then .escLit else .escRun (c.extractLsb' 4 4) (c.extractLsb' 0 4)

/-- The first token of a compressed stream and the bytes after it (R101). -/
def decodeToken : List Byte → Except DecodeError (Instr × List Byte)
  | [] => .error .noBytes
  | b :: rest =>
    if b = Config.sentinel then
      match rest with
      | [] => .error .truncatedEscape
      | c :: rest => .ok (decodeEscape c, rest)
    else .ok (.lit b, rest)

/-- The one instruction a request is: a command word, or a stream that is exactly one token. -/
def decodeRequest : Request → Except DecodeError Instr
  | .command w => decodeCommand w
  | .stream bytes =>
    match decodeToken bytes with
    | .ok (i, []) => .ok i
    | .ok (_, _ :: _) => .error .trailingBytes
    | .error e => .error e

/-- The request whose bits are `w`, numbered as spec/opcode_table.json numbers them: a row of 8 or 16
bits is a token, its first byte in the high bits (R95); any other is a command word. -/
def tableRequest (nbits w : Nat) : Request :=
  match nbits with
  | 8 => .stream [BitVec.ofNat 8 w]
  | 16 => .stream [BitVec.ofNat 8 (w / 256), BitVec.ofNat 8 w]
  | _ => .command (BitVec.ofNat 72 w)

/-- The instruction the decoder reads from a table row's bits. -/
def decodeTableWord (nbits w : Nat) : Option Instr :=
  (decodeRequest (tableRequest nbits w)).toOption

/-- A command word from its opcode byte and operand field (R97). -/
def commandWord (op : BitVec 8) (arg : Word64) : CmdWord := op ++ arg

/-- An operand byte put at `arg[8k+7:8k]` (R98). -/
def placeByte (b : Byte) (k : Nat) : Word64 := b.setWidth 64 <<< (8 * k)

/-- The second byte of an ESC.RUN token: count in bits 7:4, index in bits 3:0 (R96). -/
def runByte (count index : BitVec 4) : Byte := (count.setWidth 8 <<< 4) ||| index.setWidth 8

/-- The bits of a well-formed instruction (R94 to R98); reserved bits are zero. -/
def encode : Instr → Request
  | .nop => .command (commandWord 0x00 0)
  | .rdreg r => .command (commandWord 0x01 (r.setWidth 64))
  | .reset => .command (commandWord 0x02 0)
  | .ksLoad k => .command (commandWord 0x10 (k.setWidth 64))
  | .ksStep => .command (commandWord 0x11 0)
  | .decStart key => .command (commandWord 0x20 (key.setWidth 64))
  | .decByte b => .command (commandWord 0x21 (b.setWidth 64))
  | .csClear => .command (commandWord 0x30 0)
  | .csByte b => .command (commandWord 0x31 (b.setWidth 64))
  | .csVerify x => .command (commandWord 0x32 (x.setWidth 64))
  | .rleDict i v => .command (commandWord 0x40 (placeByte v 0 ||| (i.setWidth 64 <<< 8)))
  | .rleStart cap => .command (commandWord 0x41 cap)
  | .rleByte b => .command (commandWord 0x42 (b.setWidth 64))
  | .rleEnd => .command (commandWord 0x43 0)
  | .fj2Beat b0 b1 b2 e => .command (commandWord 0x50
      (placeByte b0 0 ||| placeByte b1 1 ||| placeByte b2 2 ||| placeByte e 3))
  | .fj3Beat f0 f1 f2 e s => .command (commandWord 0x51
      (placeByte f0 0 ||| placeByte f1 1 ||| placeByte f2 2 ||| placeByte e 3 ||| placeByte s 4))
  | .hdrParse0 off => .command (commandWord 0x60 off)
  | .hdrParse1 off => .command (commandWord 0x61 off)
  | .hdrParse2 off => .command (commandWord 0x62 off)
  | .chainScan m => .command (commandWord 0x64 (m.setWidth 64))
  | .decode key => .command (commandWord 0x68 (key.setWidth 64))
  | .lit b => .stream [b]
  | .escLit => .stream [Config.sentinel, 0x00]
  | .escRun count index => .stream [Config.sentinel, runByte count index]

/-- The name of an instruction, as R97 and R94 to R96 spell it. -/
def mnemonic : Instr → String
  | .nop => "NOP"
  | .rdreg _ => "RDREG"
  | .reset => "RESET"
  | .ksLoad _ => "KS.LOAD"
  | .ksStep => "KS.STEP"
  | .decStart _ => "DEC.START"
  | .decByte _ => "DEC.BYTE"
  | .csClear => "CS.CLEAR"
  | .csByte _ => "CS.BYTE"
  | .csVerify _ => "CS.VERIFY"
  | .rleDict _ _ => "RLE.DICT"
  | .rleStart _ => "RLE.START"
  | .rleByte _ => "RLE.BYTE"
  | .rleEnd => "RLE.END"
  | .fj2Beat _ _ _ _ => "FJ2.BEAT"
  | .fj3Beat _ _ _ _ _ => "FJ3.BEAT"
  | .hdrParse0 _ => "HDR.PARSE.0"
  | .hdrParse1 _ => "HDR.PARSE.1"
  | .hdrParse2 _ => "HDR.PARSE.2"
  | .chainScan _ => "CHAIN.SCAN"
  | .decode _ => "DECODE"
  | .lit _ => "LIT"
  | .escLit => "ESC.LIT"
  | .escRun _ _ => "ESC.RUN"

/-- The operands of an instruction, in the order the assembler writes them (R97, R102). -/
def operands : Instr → List Nat
  | .nop | .reset | .ksStep | .csClear | .rleEnd | .escLit => []
  | .rdreg r => [r.toNat]
  | .ksLoad k | .decStart k | .csVerify k | .decode k => [k.toNat]
  | .decByte b | .csByte b | .rleByte b | .chainScan b | .lit b => [b.toNat]
  | .rleDict i v => [i.toNat, v.toNat]
  | .rleStart q | .hdrParse0 q | .hdrParse1 q | .hdrParse2 q => [q.toNat]
  | .fj2Beat b0 b1 b2 e => [b0.toNat, b1.toNat, b2.toNat, e.toNat]
  | .fj3Beat f0 f1 f2 e s => [f0.toNat, f1.toNat, f2.toNat, e.toNat, s.toNat]
  | .escRun count index => [count.toNat, index.toNat]

/-- An instruction as the assembler writes it: the mnemonic, then the operands separated by commas,
numbers in C notation (R102). -/
def asmText (i : Instr) : String :=
  match operands i with
  | [] => mnemonic i
  | n :: ns => ns.foldl (fun t k => t ++ ", " ++ toString k) (mnemonic i ++ " " ++ toString n)

/-- One hexadecimal digit, as R102 writes an encoding. -/
def hexDigit (n : Nat) : Char :=
  if n < 10 then Char.ofNat (48 + n) else Char.ofNat (55 + n)

/-- `k` hexadecimal digits of `n`, most significant first. -/
def hexDigits : Nat → Nat → List Char
  | 0, _ => []
  | k + 1, n => hexDigit (n / 16 ^ k % 16) :: hexDigits k n

/-- The 18 hexadecimal digits of a command word, a space after the opcode byte (R102). -/
def commandText (w : CmdWord) : List Char :=
  hexDigits 2 (opField w).toNat ++ ' ' :: hexDigits 16 (argField w).toNat

end Sys2Proof
end

