-- ==== Sys2Proof/Machine/State.lean ====
section
/-! DEFINITION. The state of the block as plain data (10_state.md), the reasons a step can stop, and
the state right after power-on reset (R41, R311). -/

namespace Sys2Proof.Machine

open Sys2Proof (Byte Word16 Word64)

/-- The errors of 60_exceptions.md R276. -/
inductive Error where
  /-- Code 1: R277. -/
  | format
  /-- Code 2: R278. -/
  | integrity
  /-- Code 3: R282. -/
  | sizeMismatch
  /-- Code 4: R283. -/
  | capacity
  /-- Code 5: R286. -/
  | rejoinLength
  /-- Code 6: R285. -/
  | truncatedEscape
  /-- Code 7: R279. -/
  | protocol
  deriving DecidableEq, Repr

/-- Why the machine itself stops. The spec gives it no such case: every command completes (R332). -/
inductive Fault where
  /-- A MemRead outside IN. R14 says a guard always fails first, so no command raises it; it stands so
  that no read outside IN can pass unnoticed. Safe (log 18). -/
  | readOutsideInput
  deriving DecidableEq, Repr

/-- Why the model gives an instruction no meaning. -/
inductive Refusal where
  /-- exec's arm for an instruction whose meaning is not written; no arm is left with it. Safe. -/
  | notModelled (mnemonic : String)
  deriving DecidableEq, Repr

/-- Why a function rule ends without a result. -/
inductive Stop where
  /-- The function raises the error (R15, R251). -/
  | raised (e : Error)
  /-- A MemRead outside IN (R14): never, see Fault.readOutsideInput. -/
  | readOutside
  deriving DecidableEq, Repr

/-- A byte buffer of the block, IN or OUT (20_memory.md R60, R63): its cells, addresses strictly
rising, none equal to what an unlisted address reads as (log 5). -/
abbrev Memory := List Host.Cell

/-- A stream configuration record CFG[f] (10_state.md R35, R36). -/
structure StreamCfg where
  /-- `VALID`, the validity flag. -/
  valid : Bool
  /-- `HLEN`, header length in bytes. -/
  hlen : BitVec 8
  /-- `FLAGS`: COMP, ENC, CKS, CONT, FLT, FLT3 in bits 7 to 2; bits 1:0 are 0 (R37). -/
  flags : BitVec 8
  /-- `ORIG`, original size. -/
  orig : Word64
  /-- `STORED`, stored size. -/
  stored : Word64
  /-- `SUM`, expected checksum. -/
  sum : Word16
  /-- `OFF`, offset in IN of the first header byte. -/
  off : Word64
  /-- `DOFF`, offset in IN of the first data byte. -/
  doff : Word64
  /-- `DICT[0..15]` of the frame. -/
  dict : Vector Byte 16
  /-- The MODEL's own bit: the record is invalid because its checksum field was short, so HLEN still
  means what R126 says (log 8). -/
  shortSum : Bool
  deriving DecidableEq, Repr

/-- The response record of a command (30_encoding.md R100). -/
structure Response where
  err : BitVec 3
  val : Word64
  data : List Byte
  deriving DecidableEq, Repr

/-- What RDREG finds: a value, or a value the spec leaves unspecified within the bits of `mask`
(10_state.md R30; 93 U7). -/
inductive RegValue where
  | known (v : Word64)
  | unspecified (mask : Word64)
  deriving DecidableEq, Repr

/-- A field of a record, as RDREG numbers them (10_state.md R36). -/
inductive CfgField where
  | valid | hlen | flags | orig | stored | sum | off | doff
  | dict (i : Fin 16)
  deriving DecidableEq, Repr

/-- A register RDREG can name (10_state.md R30). -/
inductive Reg where
  | ks | cs | stat | err | dpos | rpos | ocnt | cap | dv | nfr | olen | blen
  | dict (i : Fin 16)
  | cfg (f : Fin 3) (k : CfgField)
  deriving DecidableEq, Repr

/-- The whole state. -/
structure State where
  /-- What the host has issued and the block not yet taken, first first (R97; log 1). -/
  port : List Request
  /-- `KS` (R21). -/
  ks : Word16
  /-- `STAT.KSV` (R28). -/
  ksv : Bool
  /-- `DPOS`; its bit 0 is the pair phase PH (R22). -/
  dpos : Word64
  /-- `CS` (R24). -/
  cs : Word16
  /-- `STAT.CSV` (R28). -/
  csv : Bool
  /-- `DICT[0..15]` (R25). -/
  dict : Vector Byte 16
  /-- `DV` (R25). -/
  dv : BitVec 16
  /-- `ESC`, escape pending (R26). -/
  esc : Bool
  /-- `RLEV`, decompression in progress (R26). -/
  rlev : Bool
  /-- `RPOS` (R27). -/
  rpos : Word64
  /-- `OCNT` (R27). -/
  ocnt : Word64
  /-- `CAP` (R27). -/
  cap : Word64
  /-- `ERR` (R29). -/
  err : BitVec 3
  /-- `STAT.SCANV` (R28). -/
  scanv : Bool
  /-- `STAT.OUTV` (R28). -/
  outv : Bool
  /-- `NFR` (R34). -/
  nfr : BitVec 2
  /-- `CFG[0..2]` (R36). -/
  cfg : Vector StreamCfg 3
  /-- `IN` (R31, R60). -/
  inp : Memory
  /-- `BLEN` (R31). -/
  blen : Word64
  /-- `S[0..2]`; empty but inside DECODE (R32). -/
  streams : Vector (List Byte) 3
  /-- `OUT` (R33, R63). -/
  out : Memory
  /-- `OLEN` (R33). -/
  olen : Word64
  /-- The response to the last command (R100; log 17). -/
  resp : Response
  /-- The MODEL's own field: how many draws of free values have been made (log 6). -/
  free : Nat
  deriving DecidableEq, Repr

/-- What the port gives the step that comes next. -/
inductive Fetched where
  /-- Nothing: the block executes nothing until a command arrives (R312). -/
  | idle
  /-- A stream with no byte left; it is taken off the port. -/
  | drained (s : State)
  /-- An illegal command word (R99). -/
  | illegal (s : State)
  /-- An instruction, and the state with it taken off the port. -/
  | run (i : Instr) (s : State)
  deriving DecidableEq, Repr

/-- A record after reset: VALID is 0 (R41); every other field is unspecified, the zeros DESIGN CHOICE,
log 3. RDREG answers a free value for them. -/
def StreamCfg.atReset : StreamCfg :=
  { valid := false, hlen := 0, flags := 0, orig := 0, stored := 0, sum := 0, off := 0, doff := 0,
    dict := Vector.replicate 16 0, shortSum := false }

/-- The state after power-on reset (10_state.md R41; 70_reset_and_hazards.md R311). KS, CS, DICT and the
fields of CFG are unspecified there: the zeros are DESIGN CHOICE, log 3. IN and BLEN are the host's:
nothing loaded is DESIGN CHOICE, log 4. The empty port is log 1, the response log 17, `free` log 6. -/
def State.reset : State :=
  { port := []
    ks := 0, ksv := false, dpos := 0
    cs := 0, csv := false
    dict := Vector.replicate 16 0, dv := 0
    esc := false, rlev := false, rpos := 0, ocnt := 0, cap := 0
    err := 0, scanv := false, outv := false, nfr := 0
    cfg := Vector.replicate 3 StreamCfg.atReset
    inp := [], blen := 0
    streams := Vector.replicate 3 []
    out := [], olen := 0
    resp := { err := 0, val := 0, data := [] }
    free := 0 }

end Sys2Proof.Machine
end

