-- ==== Sys2Proof/Machine/Flags.lean ====
section
/-! DEFINITION. The flag words: the codes of ERR (60_exceptions.md R276), the FLAGS byte of a record
(10_state.md R37; 30_encoding.md R91) and the view STAT (10_state.md R28). -/

namespace Sys2Proof.Machine

open Sys2Proof (Byte Word16 Word64)

/-- The value ERR takes for an error (R276). -/
def Error.code : Error → BitVec 3
  | .format => 1
  | .integrity => 2
  | .sizeMismatch => 3
  | .capacity => 4
  | .rejoinLength => 5
  | .truncatedEscape => 6
  | .protocol => 7

/-- A header's flags byte as FLAGS holds it: the reserved bits 1:0 forced to 0 (R37, R91; 92 D11). -/
def flagsOfByte (b : Byte) : BitVec 8 := b &&& 0xFC

/-- `COMP`, bit 7: the data region is compressed (R91). -/
def StreamCfg.comp (c : StreamCfg) : Bool := c.flags.getLsbD 7

/-- `ENC`, bit 6: the data region is encrypted (R91). -/
def StreamCfg.enc (c : StreamCfg) : Bool := c.flags.getLsbD 6

/-- `CKS`, bit 5: the header has a checksum field (R91). -/
def StreamCfg.cks (c : StreamCfg) : Bool := c.flags.getLsbD 5

/-- `CONT`, bit 4: another frame follows (R91). -/
def StreamCfg.cont (c : StreamCfg) : Bool := c.flags.getLsbD 4

/-- `FLT`, bit 3: the stream is part of a split-float encoding (R91). -/
def StreamCfg.flt (c : StreamCfg) : Bool := c.flags.getLsbD 3

/-- `FLT3`, bit 2: the split-float encoding has 3 streams (R91). -/
def StreamCfg.flt3 (c : StreamCfg) : Bool := c.flags.getLsbD 2

/-- `PH`, the pair phase: bit 0 of DPOS (R22). -/
def State.ph (s : State) : Bool := s.dpos.getLsbD 0

/-- One bit of a 16-bit word. -/
def flagBit (b : Bool) (k : Nat) : BitVec 16 := (BitVec.ofBool b).setWidth 16 <<< k

/-- `STAT`: KSV, PH, CSV, RLEV, ESC, SCANV, OUTV in bits 0 to 6; bits 15:7 read as 0 (R28). -/
def State.stat (s : State) : BitVec 16 :=
  flagBit s.ksv 0 ||| flagBit s.ph 1 ||| flagBit s.csv 2 ||| flagBit s.rlev 3 ||| flagBit s.esc 4
    ||| flagBit s.scanv 5 ||| flagBit s.outv 6

end Sys2Proof.Machine
end

