-- ==== Sys2Proof/Machine/Operands.lean ====
section
/-! DEFINITION. The operand forms: the nibbles of a run's control byte (30_encoding.md R96), the two
bytes of a keystream word (20_memory.md R67), big-endian header fields (R65) and the register
numbers of RDREG (10_state.md R30, R36). The operand fields of the command word are Decode.lean's (R98). -/

namespace Sys2Proof.Machine

open Sys2Proof (Byte Word16 Word64)

/-- `c[7:4]`, the repeat count of a run (R96). -/
def runCount (c : Byte) : Nat := (c.extractLsb' 4 4).toNat

/-- `c[3:0]`, the dictionary index of a run (R96). -/
def runIndex (c : Byte) : BitVec 4 := c.extractLsb' 0 4

/-- Entry `i` of a 16-byte dictionary (20_memory.md R62: a 4-bit index is never out of range). -/
def dictEntry (d : Vector Byte 16) (i : BitVec 4) : Byte := d[i.toNat]

/-- Bits 7:0 of a keystream word, for the first byte of a pair (R67, R172). -/
def lowByte (w : Word16) : Byte := w.extractLsb' 0 8

/-- Bits 15:8 of a keystream word, for the second byte of a pair (R67, R172). -/
def highByte (w : Word16) : Byte := w.extractLsb' 8 8

/-- `be(b_0 ... b_k)`: the big-endian value of the bytes (R14, R65). -/
def bigEndian (bytes : List Byte) : Nat := bytes.foldl (fun v b => v * 256 + b.toNat) 0

/-- The field RDREG offset `k` names (10_state.md R36): 0 to 7, and 0x10 + i for DICT[i]. -/
def cfgFieldOf (k : Nat) : Option CfgField :=
  match k with
  | 0 => some .valid
  | 1 => some .hlen
  | 2 => some .flags
  | 3 => some .orig
  | 4 => some .stored
  | 5 => some .sum
  | 6 => some .off
  | 7 => some .doff
  | _ => if h : 0x10 ≤ k ∧ k < 0x20 then some (.dict ⟨k - 0x10, by omega⟩) else none

/-- The register a number names, or none where the number is unassigned (10_state.md R30). -/
def regOf (r : BitVec 8) : Option Reg :=
  match r.toNat with
  | 0x00 => some .ks
  | 0x01 => some .cs
  | 0x02 => some .stat
  | 0x03 => some .err
  | 0x04 => some .dpos
  | 0x05 => some .rpos
  | 0x06 => some .ocnt
  | 0x07 => some .cap
  | 0x09 => some .dv
  | 0x0A => some .nfr
  | 0x0B => some .olen
  | 0x0C => some .blen
  | n =>
    if h : 0x10 ≤ n ∧ n < 0x20 then some (.dict ⟨n - 0x10, by omega⟩)
    else if h : 0x40 ≤ n ∧ n < 0xA0 then
      (cfgFieldOf ((n - 0x40) % 0x20)).map (.cfg ⟨(n - 0x40) / 0x20, by omega⟩)
    else none

end Sys2Proof.Machine
end

