-- ==== Sys2Proof/Machine/Ops.lean ====
section
/-! DEFINITION. The named operations over memory and registers: buffers (20_memory.md), 64-bit
counters, the response (30_encoding.md R100), raising an error and leaving the error state
(60_exceptions.md R280, R281, R290), the resets (70_reset_and_hazards.md R310), reading a register
(10_state.md R30), and taking the next command off the port. -/

namespace Sys2Proof.Machine

open Sys2Proof (Byte Word16 Word64)

/-! ### Buffers -/

/-- What an address with no cell reads as. DESIGN CHOICE, log 5. -/
def Memory.unlisted : Byte := 0

/-- The byte at an address. -/
def Memory.read : Memory → Nat → Byte
  | [], _ => Memory.unlisted
  | (k, v) :: rest, a => if k = a then v else Memory.read rest a

/-- The `n` bytes from `a` up, in increasing address order (00_scope.md R14). -/
def Memory.readRange (m : Memory) (a : Nat) : Nat → List Byte
  | 0 => []
  | n + 1 => m.read a :: Memory.readRange m (a + 1) n

/-- Puts one byte at an address and keeps the canonical form. -/
def Memory.write : Memory → Nat → Byte → Memory
  | [], a, b => if b = Memory.unlisted then [] else [(a, b)]
  | (k, v) :: rest, a, b =>
    if k < a then (k, v) :: Memory.write rest a b
    else if k = a then (if b = Memory.unlisted then rest else (a, b) :: rest)
    else (if b = Memory.unlisted then (k, v) :: rest else (a, b) :: (k, v) :: rest)

/-- `MemWrite(a, n, v)`: the bytes `v` from `a` up, in increasing index order (00_scope.md R14). -/
def Memory.writeBytes (m : Memory) (a : Nat) : List Byte → Memory
  | [] => m
  | b :: rest => Memory.writeBytes (m.write a b) (a + 1) rest

/-- Addresses rise strictly from `lo` up and no cell holds what an unlisted address reads as. -/
def Memory.wfFrom (lo : Nat) : Memory → Bool
  | [] => true
  | (k, v) :: rest => decide (lo ≤ k) && v != Memory.unlisted && Memory.wfFrom (k + 1) rest

/-- The canonical form. -/
def Memory.wf (m : Memory) : Bool := Memory.wfFrom 0 m

/-- `MemRead(a, n)` of IN, defined only inside the buffer (00_scope.md R14; 20_memory.md R75). -/
def memRead (inp : Memory) (blen a n : Nat) : Except Stop (List Byte) :=
  if n = 0 ∨ a + n ≤ blen then .ok (inp.readRange a n) else .error .readOutside

/-- The host's load of the input buffer before it issues commands (10_state.md R31; 47_orchestrator.md
R259). No step does this: log 19. -/
def State.loadInput (bytes : List Byte) (s : State) : State :=
  { s with inp := Memory.writeBytes [] 0 bytes, blen := BitVec.ofNat 64 bytes.length }

/-- What the host is owed of OUT: its first OLEN bytes while OUTV is set, nothing otherwise
(10_state.md R33; 93 U19). -/
def State.output (s : State) : Option (List Byte) :=
  if s.outv then some (s.out.readRange 0 s.olen.toNat) else none

/-! ### Numbers -/

/-- `align_up(x, 4096)` over naturals (00_scope.md R10, R12). -/
def alignUp (x : Nat) : Nat :=
  (x + Config.frameAlign - 1) / Config.frameAlign * Config.frameAlign

/-- A natural put into a 64-bit register; one that does not fit leaves a free value, since R13 allows
no silent truncation and the spec states no other value (logs 9, 10). -/
def fit64 (n draw slot : Nat) : Word64 :=
  if n < 2 ^ 64 then BitVec.ofNat 64 n else Config.freeValue draw slot

/-- How many draws `fit64` makes. -/
def fitDraws (n : Nat) : Nat := if n < 2 ^ 64 then 0 else 1

/-- `DPOS <- DPOS + 1` (43_decryptor.md R177). -/
def State.countDpos (s : State) : State :=
  { s with dpos := fit64 (s.dpos.toNat + 1) s.free 0, free := s.free + fitDraws (s.dpos.toNat + 1) }

/-- `RPOS <- RPOS + 1` (44_decompressor.md R197). -/
def State.countRpos (s : State) : State :=
  { s with rpos := fit64 (s.rpos.toNat + 1) s.free 0, free := s.free + fitDraws (s.rpos.toNat + 1) }

/-- One draw of free values has been made (log 6). -/
def State.drawn (s : State) : State := { s with free := s.free + 1 }

/-! ### Responses and errors -/

/-- Ends a command: `err` is ERR as it then stands, `val` and `data` as the command's rule says (R100). -/
def respond (val : Word64) (data : List Byte) (s : State) : State :=
  { s with resp := { err := s.err, val := val, data := data } }

/-- `if ERR = 0 then ERR <- code(X)` (R15, R280). -/
def State.latch (e : Error) (s : State) : State :=
  { s with err := if s.err = 0 then e.code else s.err }

/-- Taking an error, `raise X()` (R15, R280): what was written before stands, ERR latches the first
code, and the command ends with `val` 0 and the data already delivered (log 16). There is no handler,
no saved state and no mode change. -/
def takeError (e : Error) (data : List Byte) (s : State) : State :=
  respond 0 data (s.latch e)

/-- A refused command: no state change, `val` 0, no data, `err` = ERR (R100, R281). -/
def refuse (s : State) : State := respond 0 [] s

/-- `if ERR != 0: refuse`, the first line of every command but NOP, RDREG and RESET (R281). -/
def whenReady (f : State → State) (s : State) : State :=
  if s.err = 0 then f s else refuse s

/-! ### Resets -/

/-- Puts the datapath registers (47_orchestrator.md R258 names them) into their reset state; ERR is
not one of them. -/
def State.resetDatapath (s : State) : State :=
  { s with
    ks := State.reset.ks, ksv := State.reset.ksv, dpos := State.reset.dpos
    cs := State.reset.cs, csv := State.reset.csv
    dict := State.reset.dict, dv := State.reset.dv
    esc := State.reset.esc, rlev := State.reset.rlev, rpos := State.reset.rpos
    ocnt := State.reset.ocnt, cap := State.reset.cap }

/-- Leaving the error state, which RESET alone does (R261, R290, R310): everything into the reset state
of R41, but IN and BLEN, and but what is not the block's: the port (log 1) and the count of draws (log 6). -/
def State.toReset (s : State) : State :=
  { State.reset with port := s.port, inp := s.inp, blen := s.blen, free := s.free }

/-! ### Registers -/

/-- Writes a frame record (R36). -/
def State.setCfg (f : Fin 3) (c : StreamCfg) (s : State) : State :=
  { s with cfg := s.cfg.set f c }

/-- A field of a record as RDREG finds it. With VALID = 0 every field but VALID is unspecified
(93 U4, U7), except HLEN in the short-checksum case (40_header_parser.md R126; log 8); bits 1:0 of
FLAGS read 0 whatever the rest (R37). -/
def StreamCfg.readField (c : StreamCfg) (k : CfgField) : RegValue :=
  match k with
  | .valid => .known (BitVec.ofBool c.valid |>.setWidth 64)
  | .hlen => if c.valid || c.shortSum then .known (c.hlen.setWidth 64) else .unspecified 0xFF
  | .flags => if c.valid then .known (c.flags.setWidth 64) else .unspecified 0xFC
  | .orig => if c.valid then .known c.orig else .unspecified 0xFFFFFFFFFFFFFFFF
  | .stored => if c.valid then .known c.stored else .unspecified 0xFFFFFFFFFFFFFFFF
  | .sum => if c.valid then .known (c.sum.setWidth 64) else .unspecified 0xFFFF
  | .off => if c.valid then .known c.off else .unspecified 0xFFFFFFFFFFFFFFFF
  | .doff => if c.valid then .known c.doff else .unspecified 0xFFFFFFFFFFFFFFFF
  | .dict i => if c.valid then .known (c.dict[i].setWidth 64) else .unspecified 0xFF

/-- A register as RDREG finds it, zero-extended (R30); a data register whose valid bit is 0 is
unspecified (R30; 93 U7). -/
def State.readReg (s : State) (r : Reg) : RegValue :=
  match r with
  | .ks => if s.ksv then .known (s.ks.setWidth 64) else .unspecified 0xFFFF
  | .cs => if s.csv then .known (s.cs.setWidth 64) else .unspecified 0xFFFF
  | .stat => .known (s.stat.setWidth 64)
  | .err => .known (s.err.setWidth 64)
  | .dpos => .known s.dpos
  | .rpos => .known s.rpos
  | .ocnt => .known s.ocnt
  | .cap => .known s.cap
  | .dv => .known (s.dv.setWidth 64)
  | .nfr => .known (s.nfr.setWidth 64)
  | .olen => .known s.olen
  | .blen => .known s.blen
  | .dict i => if s.dv.getLsbD i then .known (s.dict[i].setWidth 64) else .unspecified 0xFF
  | .cfg f k => s.cfg[f].readField k

/-! ### The port -/

/-- What is left of a stream goes back to the front of the port. -/
def pushStream (bytes : List Byte) (port : List Request) : List Request :=
  match bytes with
  | [] => port
  | _ :: _ => .stream bytes :: port

/-- Takes the next instruction off the port: a command word (R97), or the next token of a stream
(R101). A lone 0x07 at the end of a stream is not yet a token: it goes to the decompressor as the one
beat it is (R197; log 2). -/
def fetch (s : State) : Fetched :=
  match s.port with
  | [] => .idle
  | .command w :: rest =>
    match decodeCommand w with
    | .ok i => .run i { s with port := rest }
    | .error _ => .illegal { s with port := rest }
  | .stream [] :: rest => .drained { s with port := rest }
  | .stream (b :: bytes) :: rest =>
    match decodeToken (b :: bytes) with
    | .ok (i, left) => .run i { s with port := pushStream left rest }
    | .error _ => .run (.rleByte b) { s with port := pushStream bytes rest }

/-- An illegal command changes no state except that it raises ProtocolError (R99). -/
def takeIllegal (s : State) : State := takeError .protocol [] s

/-- Puts a request at the front of the port. -/
def State.issue (r : Request) (s : State) : State := { s with port := r :: s.port }

end Sys2Proof.Machine
end

