-- ==== Sys2Proof/Machine/Control.lean ====
section
/-! DEFINITION. The control commands NOP, RDREG and RESET (47_orchestrator.md R260 to R262). -/

namespace Sys2Proof.Machine

open Sys2Proof (Byte Word16 Word64)

/-- NOP: no effect on any state, accepted even when ERR is not 0 (R260). -/
def execNop (s : State) : Host.Outcome State Fault Refusal :=
  .next (respond 0 [] s)

/-- What RDREG answers: an unassigned number raises ProtocolError (R262, R279); a specified value is
returned; an unspecified one is a free value within its register's bits, and the draw is counted. -/
def readRegister (r : BitVec 8) (s : State) : State :=
  match regOf r with
  | none => takeError .protocol [] s
  | some reg =>
    match s.readReg reg with
    | .known v => respond v [] s
    | .unspecified mask => respond (Config.freeValue s.free 0 &&& mask) [] s.drawn

/-- RDREG r: accepted even when ERR is not 0 (R262). -/
def execRdreg (r : BitVec 8) (s : State) : Host.Outcome State Fault Refusal :=
  .next (readRegister r s)

/-- RESET: accepted in every state, the only way to clear ERR (R261, R290). -/
def execReset (s : State) : Host.Outcome State Fault Refusal :=
  .next (respond 0 [] s.toReset)

end Sys2Proof.Machine
end

