-- ==== Sys2Proof/Machine/HeaderParser.lean ====
section
/-! DEFINITION. The header parser: `parse_header` and HDR.PARSE.f (40_header_parser.md). -/

namespace Sys2Proof.Machine

open Sys2Proof (Byte Word16 Word64)

/-- A value for the field at RDREG offset `k` of record `f` (R36) that the spec leaves unspecified. -/
def freeField (draw f k : Nat) : Word64 := Config.freeValue draw (0x20 * f + k)

/-- An unspecified dictionary of record `f` (R128; 93 U6). -/
def freeDict (draw f : Nat) : Vector Byte 16 :=
  Vector.ofFn fun i => (freeField draw f (0x10 + i.val)).setWidth 8

/-- A record that was not read: VALID, HLEN, FLAGS, ORIG, STORED are 0, SUM and DICT unspecified
(R128; log 7). -/
def blankCfg (draw f : Nat) : StreamCfg :=
  { StreamCfg.atReset with sum := (freeField draw f 5).setWidth 16, dict := freeDict draw f }

/-- The 64-bit big-endian field at offset `a` of a header (R65, R123). -/
def headerWord64 (bytes : List Byte) (a : Nat) : Word64 :=
  BitVec.ofNat 64 (bigEndian ((bytes.drop a).take 8))

/-- The dictionary at offset 20 of a header (R92, R124). -/
def headerDict (bytes : List Byte) : Vector Byte 16 :=
  Vector.ofFn fun i => bytes.getD (Config.fixedHeaderLen + i.val) 0

/-- The checksum step: with CKS = 0 nothing is read and the record is valid; else the field at `p` is
read, and if it is short VALID stays 0 with HLEN advanced all the same (R125, R126). -/
def parseSum (bytes : List Byte) (length : Nat) (c : StreamCfg) : StreamCfg :=
  if c.cks then
    let p := c.hlen.toNat
    let c := { c with hlen := BitVec.ofNat 8 (p + Config.checksumLen) }
    if length < p + Config.checksumLen then { c with shortSum := true }
    else { c with sum := BitVec.ofNat 16 (bigEndian [bytes.getD p 0, bytes.getD (p + 1) 0]), valid := true }
  else { c with valid := true }

/-- The dictionary step: with COMP = 0 nothing is read; else 16 bytes, or the record is invalid and
parsing stops (R124). -/
def parseDict (bytes : List Byte) (length : Nat) (c : StreamCfg) : StreamCfg :=
  if c.comp then
    if length < Config.fixedHeaderLen + Config.dictLen then c
    else parseSum bytes length
      { c with dict := headerDict bytes
               hlen := BitVec.ofNat 8 (Config.fixedHeaderLen + Config.dictLen) }
  else parseSum bytes length c

/-- `parse_header(bytes, length)` for record `f` (R128). All three magic bytes must match (R122).
`draw` numbers the free values SUM and DICT hold where they are not read. -/
def parseHeader (magic : Magic) (draw f : Nat) (bytes : List Byte) (length : Nat) : StreamCfg :=
  if length < Config.fixedHeaderLen then blankCfg draw f
  else if bytes.getD 0 0 ≠ magic.m0 ∨ bytes.getD 1 0 ≠ magic.m1 ∨ bytes.getD 2 0 ≠ magic.m2 then
    blankCfg draw f
  else parseDict bytes length
    { blankCfg draw f with
      flags := flagsOfByte (bytes.getD 3 0)
      orig := headerWord64 bytes 4
      stored := headerWord64 bytes 12
      hlen := BitVec.ofNat 8 Config.fixedHeaderLen }

/-- `align_up(off + HLEN, 4096)`, in naturals (R130; 45_chain_analyzer.md R212). -/
def dataOffset (off : Nat) (c : StreamCfg) : Nat := alignUp (off + c.hlen.toNat)

/-- The header at an offset of IN as record `f`, with OFF and DOFF (R130; 45_chain_analyzer.md R221):
at most 38 bytes are read, none at or past BLEN (R120). -/
def headerAt (magic : Magic) (draw f : Nat) (inp : Memory) (blen off : Nat) :
    Except Stop StreamCfg :=
  let length := if off ≤ blen then blen - off else 0
  match memRead inp blen off (min length 38) with
  | .error e => .error e
  | .ok bytes =>
    let c := parseHeader magic draw f bytes length
    .ok { c with off := BitVec.ofNat 64 off
                 doff := fit64 (dataOffset off c) draw (0x20 * f + 7) }

/-- HDR.PARSE.f off: CFG[f] is the header at `off`; SCANV and OUTV are cleared; `val` is VALID
(R130, against R100: log 15); an invalid header is no error of this command (R120, R130). -/
def hdrParse (f : Fin 3) (off : Word64) (s : State) : Host.Outcome State Fault Refusal :=
  if s.err = 0 then
    match headerAt Config.magic s.free f s.inp s.blen.toNat off.toNat with
    | .error _ => .fault .readOutsideInput
    | .ok c =>
      .next (respond ((BitVec.ofBool c.valid).setWidth 64) []
        { s.setCfg f c with scanv := false, outv := false }.drawn)
  else .next (refuse s)

/-- HDR.PARSE.0 off (R130). -/
def execHdrParse0 (off : Word64) (s : State) : Host.Outcome State Fault Refusal := hdrParse 0 off s

/-- HDR.PARSE.1 off (R130). -/
def execHdrParse1 (off : Word64) (s : State) : Host.Outcome State Fault Refusal := hdrParse 1 off s

/-- HDR.PARSE.2 off (R130). -/
def execHdrParse2 (off : Word64) (s : State) : Host.Outcome State Fault Refusal := hdrParse 2 off s

end Sys2Proof.Machine
end

