-- ==== Sys2Proof/Machine/ChainAnalyzer.lean ====
section
/-! DEFINITION. The stream chain analyzer: `analyze_chain` and CHAIN.SCAN (45_chain_analyzer.md). -/

namespace Sys2Proof.Machine

open Sys2Proof (Byte Word16 Word64)

/-- FormatError as a function's result (R210). -/
def formatStop : Stop := .raised .format

/-- The walk from the frame at `off`, which is frame number `f`, with room for `room` frames: one round
of R221's loop, then the rest. All arithmetic is in naturals (00_scope.md R10). -/
def chainFrom (magic : Magic) (draw : Nat) (inp : Memory) (blen : Nat) :
    (room f off : Nat) → Except Stop (List StreamCfg)
  | 0, _, _ => .error formatStop
  | room + 1, f, off =>
    match headerAt magic draw f inp blen off with
    | .error e => .error e
    | .ok c =>
      if c.valid = false then .error formatStop
      else
        let dataEnd := dataOffset off c + c.stored.toNat
        if blen < dataEnd then .error formatStop
        else if c.cont = false then .ok [c]
        else if c.flt = false then .error formatStop
        else if room = 0 then .error formatStop
        else if blen ≤ alignUp dataEnd then .error formatStop
        else
          match chainFrom magic draw inp blen room (f + 1) (alignUp dataEnd) with
          | .error e => .error e
          | .ok cs => .ok (c :: cs)

/-- The float flags fit the frame count (R219): no requirement on one frame, FLT without FLT3 on both
of two, both flags on all of three. -/
def flagsConsistent (frames : List StreamCfg) : Bool :=
  match frames.length with
  | 1 => true
  | 2 => frames.all fun c => c.flt && !c.flt3
  | 3 => frames.all fun c => c.flt && c.flt3
  | _ => false

/-- `analyze_chain(IN, BLEN, max)` (R221). -/
def analyzeChain (magic : Magic) (draw : Nat) (inp : Memory) (blen max : Nat) :
    Except Stop (List StreamCfg) :=
  match chainFrom magic draw inp blen max 0 0 with
  | .error e => .error e
  | .ok frames => if flagsConsistent frames then .ok frames else .error formatStop

/-- A record of which nothing is specified, VALID included (93 U9; log 7); bits 1:0 of FLAGS still
read 0 (10_state.md R37). -/
def freeCfg (draw f : Nat) : StreamCfg :=
  { valid := (freeField draw f 0).getLsbD 0
    hlen := (freeField draw f 1).setWidth 8
    flags := flagsOfByte ((freeField draw f 2).setWidth 8)
    orig := freeField draw f 3
    stored := freeField draw f 4
    sum := (freeField draw f 5).setWidth 16
    off := freeField draw f 6
    doff := freeField draw f 7
    dict := freeDict draw f
    shortSum := false }

/-- `SCANV <- 0; OUTV <- 0; NFR <- 0`, what a scan does before it looks at IN (R222). -/
def beginScan (s : State) : State := { s with scanv := false, outv := false, nfr := 0 }

/-- The records after a scan that found `frames`: theirs, and VALID <- 0 in the others (R222). -/
def scannedCfg (frames : List StreamCfg) (old : Vector StreamCfg 3) : Vector StreamCfg 3 :=
  Vector.ofFn fun f => frames.getD f.val { old[f] with valid := false, shortSum := false }

/-- A successful scan: `CFG`, `NFR`, `SCANV <- 1` (R222). -/
def recordScan (frames : List StreamCfg) (s : State) : State :=
  { s with cfg := scannedCfg frames s.cfg, nfr := BitVec.ofNat 2 frames.length, scanv := true }

/-- A failed scan leaves CFG unspecified, with NFR = 0 and SCANV = 0 (R222; 93 U9; log 7). -/
def recordNoScan (s : State) : State :=
  { s with cfg := Vector.ofFn fun f => freeCfg s.free f.val }

/-- CHAIN.SCAN m: ProtocolError for `m` outside 1 to 3; else the chain is walked, FormatError if it is
bad, and `val` is NFR (R222, against 30_encoding.md R100: log 15). -/
def execChainScan (m : Byte) (s : State) : Host.Outcome State Fault Refusal :=
  if s.err = 0 then
    if m.toNat < 1 ∨ 3 < m.toNat then .next (takeError .protocol [] s)
    else
      match analyzeChain Config.magic s.free s.inp s.blen.toNat m.toNat with
      | .error .readOutside => .fault .readOutsideInput
      | .error (.raised e) => .next (takeError e [] (recordNoScan (beginScan s)).drawn)
      | .ok frames =>
        .next (respond (BitVec.ofNat 64 frames.length) [] (recordScan frames (beginScan s)).drawn)
  else .next (refuse s)

end Sys2Proof.Machine
end

