-- ==== Sys2Proof/Machine/Checksum.lean ====
section
/-! DEFINITION. The checksum unit: `checksum` and CS.CLEAR, CS.BYTE, CS.VERIFY (41_checksum.md). -/

namespace Sys2Proof.Machine

open Sys2Proof (Byte Word16 Word64)

/-- `trunc_16(c + zext_16(b))`: bytes are unsigned (R140, R143). -/
def checksumAdd (c : Word16) (b : Byte) : Word16 := c + b.setWidth 16

/-- `checksum(b_0 ... b_(n-1))`: the sum of the bytes modulo 2^16, from 0 (R140). -/
def checksum (bytes : List Byte) : Word16 := bytes.foldl checksumAdd 0

/-- The key a host derives from a passphrase's bytes (R144). -/
def keyOfPassphrase (passphrase : List Byte) : Word16 := checksum passphrase

/-- CS.CLEAR: `CS <- 0; CSV <- 1` (R142). -/
def execCsClear (s : State) : Host.Outcome State Fault Refusal :=
  .next (whenReady (fun s => respond 0 [] { s with cs := 0, csv := true }) s)

/-- CS.BYTE b: `CS <- trunc_16(CS + zext_16(b))`; ProtocolError while CSV = 0 (R143). -/
def execCsByte (b : Byte) (s : State) : Host.Outcome State Fault Refusal :=
  .next (whenReady (fun s =>
    if s.csv then respond 0 [] { s with cs := checksumAdd s.cs b }
    else takeError .protocol [] s) s)

/-- CS.VERIFY x: IntegrityError if `CS != x`; CS is not changed; ProtocolError while CSV = 0 (R145). -/
def execCsVerify (x : Word16) (s : State) : Host.Outcome State Fault Refusal :=
  .next (whenReady (fun s =>
    if s.csv then (if s.cs = x then respond 0 [] s else takeError .integrity [] s)
    else takeError .protocol [] s) s)

end Sys2Proof.Machine
end

