-- ==== Sys2Proof/Machine/Decompressor.lean ====
section
/-! DEFINITION. The decompressor: `decompress`, the commands RLE.DICT, RLE.START, RLE.BYTE, RLE.END, and
the tokens LIT, ESC.LIT, ESC.RUN (44_decompressor.md). -/

namespace Sys2Proof.Machine

open Sys2Proof (Byte Word16 Word64)

/-! ### The function -/

/-- What a token emits (R187, R188, R189). -/
def tokenOutput (dict : Vector Byte 16) (c : Byte) : List Byte :=
  if c = 0x00 then [Config.sentinel]
  else List.replicate (runCount c) (dictEntry dict (runIndex c))

/-- The scan from an output already emitted: every token's bytes are appended while they fit in `cap`;
the first that do not are cut at `cap` and end the scan with CapacityError (R186, R190); a lone
sentinel ends it as TRAILING_ESCAPE says (R192; 93 U3). The status is none for `ok`. -/
def decompressFrom (te : TrailingEscape) (dict : Vector Byte 16) (cap : Nat) (out : List Byte) :
    List Byte → List Byte × Option Error
  | [] => (out, none)
  | [b] =>
    if b = Config.sentinel then
      match te with
      | .error => (out, some .truncatedEscape)
      | .literal => if out.length < cap then (out ++ [b], none) else (out, some .capacity)
    else if out.length < cap then (out ++ [b], none)
    else (out, some .capacity)
  | b :: c :: rest =>
    if b = Config.sentinel then
      let bytes := tokenOutput dict c
      if out.length + bytes.length ≤ cap then decompressFrom te dict cap (out ++ bytes) rest
      else (out ++ bytes.take (cap - out.length), some .capacity)
    else if out.length < cap then decompressFrom te dict cap (out ++ [b]) (c :: rest)
    else (out, some .capacity)

/-- `decompress(input, dict, cap) -> (output, status)` (R185, R186). -/
def decompress (te : TrailingEscape) (input : List Byte) (dict : Vector Byte 16) (cap : Nat) :
    List Byte × Option Error :=
  decompressFrom te dict cap [] input

/-! ### The commands -/

/-- Delivers a token's output: all of it where `CAP - OCNT` leaves room, else the bytes that fit, with
RLEV cleared and CapacityError raised (R190, R197). -/
def deliver (val : State → Word64) (bytes : List Byte) (s : State) : State :=
  let room := s.cap.toNat - s.ocnt.toNat
  if bytes.length ≤ room then
    let t := { s with ocnt := s.ocnt + BitVec.ofNat 64 bytes.length }
    respond (val t) bytes t
  else takeError .capacity (bytes.take room) { s with ocnt := s.cap, rlev := false }

/-- The second byte of an escape: 0x00 is ESC.LIT, else a run, which needs its entry written unless
its count is 0 (R188, R189, R197, R279). -/
def secondByte (b : Byte) (s : State) : State :=
  if b ≠ 0x00 ∧ 0 < runCount b ∧ s.dv.getLsbD (runIndex b).toNat = false then
    takeError .protocol [] s
  else deliver (fun _ => 0) (tokenOutput s.dict b) s

/-- One input byte of the decompressor (R197). -/
def rleBeat (b : Byte) (s : State) : State :=
  whenReady (fun s =>
    if s.rlev then
      let s := s.countRpos
      if s.esc then secondByte b { s with esc := false }
      else if b = Config.sentinel then respond 0 [] { s with esc := true }
      else deliver (fun _ => 0) [b] s
    else takeError .protocol [] s) s

/-- RLE.DICT i, v: `DICT[i] <- v; DV[i] <- 1`; ProtocolError during a decompression (R195). -/
def execRleDict (i : BitVec 4) (v : Byte) (s : State) : Host.Outcome State Fault Refusal :=
  .next (whenReady (fun s =>
    if s.rlev then takeError .protocol [] s
    else respond 0 [] { s with
      dict := s.dict.set i.toNat v, dv := s.dv ||| (1#16 <<< i.toNat) }) s)

/-- RLE.START cap: `CAP <- cap; RPOS, OCNT, ESC <- 0; RLEV <- 1` (R196). -/
def execRleStart (cap : Word64) (s : State) : Host.Outcome State Fault Refusal :=
  .next (whenReady (fun s =>
    respond 0 [] { s with cap := cap, rpos := 0, ocnt := 0, esc := false, rlev := true }) s)

/-- RLE.BYTE b (R197). -/
def execRleByte (b : Byte) (s : State) : Host.Outcome State Fault Refusal :=
  .next (rleBeat b s)

/-- RLE.END with TRAILING_ESCAPE `te` (R198): RLEV is cleared; a pending escape is cleared too and
raises TruncatedEscapeError, or is emitted as 0x07; `val` is OCNT. -/
def rleFinish (te : TrailingEscape) (s : State) : State :=
  whenReady (fun s =>
    if s.rlev then
      if s.esc then
        match te with
        | .error => takeError .truncatedEscape [] { s with rlev := false, esc := false }
        | .literal => deliver State.ocnt [Config.sentinel] { s with rlev := false, esc := false }
      else respond s.ocnt [] { s with rlev := false }
    else takeError .protocol [] s) s

/-- RLE.END at the implementation's TRAILING_ESCAPE (R198, R9; log 13). -/
def execRleEnd (s : State) : Host.Outcome State Fault Refusal :=
  .next (rleFinish Config.trailingEscape s)

/-! ### The tokens -/

/-- The two beats of a two-byte token, their output data together (R197; log 2). -/
def rleBeats (b c : Byte) (s : State) : State :=
  let s₁ := rleBeat b s
  let s₂ := rleBeat c s₁
  { s₂ with resp := { s₂.resp with data := s₁.resp.data ++ s₂.resp.data } }

/-- Token LIT b: the decompressor takes its one byte (R187; log 2). -/
def execLit (b : Byte) (s : State) : Host.Outcome State Fault Refusal :=
  .next (rleBeat b s)

/-- Token ESC.LIT: the decompressor takes the bytes 07 00 (R188; log 2). -/
def execEscLit (s : State) : Host.Outcome State Fault Refusal :=
  .next (rleBeats Config.sentinel 0x00 s)

/-- Token ESC.RUN: the decompressor takes 07 and the control byte (R189; log 2). -/
def execEscRun (count index : BitVec 4) (s : State) : Host.Outcome State Fault Refusal :=
  .next (rleBeats Config.sentinel (runByte count index) s)

end Sys2Proof.Machine
end

