-- ==== Sys2Proof/Machine/Keystream.lean ====
section
/-! DEFINITION. The keystream generator: the LFSR step and KS.LOAD, KS.STEP (42_lfsr.md). -/

namespace Sys2Proof.Machine

open Sys2Proof (Byte Word16 Word64)

/-- `lfsr_step(s) = (s >> 1) | (n << 15)` with `n = s[0] ^ s[6] ^ s[9] ^ s[13]` (R155; 90 C1). -/
def lfsrStep (s : Word16) : Word16 :=
  let n := (s.getLsbD 0 ^^ s.getLsbD 6) ^^ (s.getLsbD 9 ^^ s.getLsbD 13)
  (s >>> 1) ||| ((BitVec.ofBool n).setWidth 16 <<< 15)

/-- The state `k` steps after `s` (R156, R158). -/
def lfsrIter : Nat → Word16 → Word16
  | 0, s => s
  | k + 1, s => lfsrIter k (lfsrStep s)

/-- The inverse step R156 gives; no command computes it. -/
def lfsrBack (s : Word16) : Word16 :=
  let n := (s.getLsbD 15 ^^ s.getLsbD 5) ^^ (s.getLsbD 8 ^^ s.getLsbD 12)
  (s <<< 1) ||| (BitVec.ofBool n).setWidth 16

/-- KS.LOAD k: `KS <- k; KSV <- 1` (R159). -/
def execKsLoad (k : Word16) (s : State) : Host.Outcome State Fault Refusal :=
  .next (whenReady (fun s => respond 0 [] { s with ks := k, ksv := true }) s)

/-- KS.STEP: `KS <- lfsr_step(KS)`, the new value in `val`; ProtocolError while KSV = 0 (R160). -/
def execKsStep (s : State) : Host.Outcome State Fault Refusal :=
  .next (whenReady (fun s =>
    if s.ksv then respond ((lfsrStep s.ks).setWidth 64) [] { s with ks := lfsrStep s.ks }
    else takeError .protocol [] s) s)

end Sys2Proof.Machine
end

