-- ==== Sys2Proof/Machine/Decryptor.lean ====
section
/-! DEFINITION. The decryptor: `decrypt` and DEC.START, DEC.BYTE (43_decryptor.md). -/

namespace Sys2Proof.Machine

open Sys2Proof (Byte Word16 Word64)

/-- The loop of `decrypt` from a keystream word: a pair takes the word's low and high byte and then the
word steps (R172); an odd trailing byte takes the low byte (R173). -/
def decryptFrom (ks : Word16) : List Byte → List Byte
  | [] => []
  | [b] => [b ^^^ lowByte ks]
  | b :: c :: rest => (b ^^^ lowByte ks) :: (c ^^^ highByte ks) :: decryptFrom (lfsrStep ks) rest

/-- `decrypt(input, key)`: the first keystream word is one step after the key (R171, R174). -/
def decrypt (input : List Byte) (key : Word16) : List Byte := decryptFrom (lfsrStep key) input

/-- Encryption is the same function (R175). -/
def encrypt (input : List Byte) (key : Word16) : List Byte := decrypt input key

/-- DEC.START key: `KS <- lfsr_step(key); KSV <- 1; DPOS <- 0` (R176). -/
def execDecStart (key : Word16) (s : State) : Host.Outcome State Fault Refusal :=
  .next (whenReady (fun s => respond 0 [] { s with ks := lfsrStep key, ksv := true, dpos := 0 }) s)

/-- DEC.BYTE b: the low byte of KS for the first of a pair; the high byte for the second, after which
KS steps; DPOS counts the byte; ProtocolError while KSV = 0 (R177). -/
def execDecByte (b : Byte) (s : State) : Host.Outcome State Fault Refusal :=
  .next (whenReady (fun s =>
    if s.ksv then
      if s.ph then respond 0 [b ^^^ highByte s.ks] { s with ks := lfsrStep s.ks }.countDpos
      else respond 0 [b ^^^ lowByte s.ks] s.countDpos
    else takeError .protocol [] s) s)

end Sys2Proof.Machine
end

