-- ==== Sys2Proof/Machine/FloatRejoiner.lean ====
section
/-! DEFINITION. The float stream rejoiner: `rejoin2`, `rejoin3` and FJ2.BEAT, FJ3.BEAT
(46_float_rejoiner.md). -/

namespace Sys2Proof.Machine

open Sys2Proof (Byte Word16 Word64)

/-- The four output bytes of a float of two streams, least significant first (R232). -/
def join2 (b0 b1 b2 e : Byte) : List Byte :=
  [b0, b1, ((e &&& 0x01) <<< 7) ||| (b2 &&& 0x7F), (b2 &&& 0x80) ||| (e >>> 1)]

/-- The four output bytes of a float of three streams, FJ3_LAYOUT at the spec's default (R236, R237;
92 D20; log 14). -/
def join3 (f0 f1 f2 e sgn : Byte) : List Byte :=
  [f0, f1, ((e &&& 0x01) <<< 7) ||| (f2 &&& 0x7F), (sgn &&& 0x80) ||| (e >>> 1)]

/-- The loop of `rejoin2`: three sign+fraction bytes and one exponent byte a float (R233). -/
def rejoin2Floats : List Byte → List Byte → List Byte
  | b0 :: b1 :: b2 :: signfrac, e :: exp => join2 b0 b1 b2 e ++ rejoin2Floats signfrac exp
  | _, _ => []

/-- `rejoin2(signfrac, exp)`; RejoinLengthError unless the lengths are 3n and n (R231, R233). -/
def rejoin2 (signfrac exp : List Byte) : Except Stop (List Byte) :=
  if signfrac.length = 3 * exp.length then .ok (rejoin2Floats signfrac exp)
  else .error (.raised .rejoinLength)

/-- The loop of `rejoin3` (R237). -/
def rejoin3Floats : List Byte → List Byte → List Byte → List Byte
  | f0 :: f1 :: f2 :: frac, e :: exp, sgn :: sign =>
    join3 f0 f1 f2 e sgn ++ rejoin3Floats frac exp sign
  | _, _, _ => []

/-- `rejoin3(frac, exp, sign)`; RejoinLengthError unless the lengths are 3n, n and n (R237). -/
def rejoin3 (frac exp sign : List Byte) : Except Stop (List Byte) :=
  if frac.length = 3 * exp.length ∧ sign.length = exp.length then
    .ok (rejoin3Floats frac exp sign)
  else .error (.raised .rejoinLength)

/-- FJ2.BEAT: one float from its bytes; no register is read or written (R240). -/
def execFj2Beat (b0 b1 b2 e : Byte) (s : State) : Host.Outcome State Fault Refusal :=
  .next (whenReady (fun s => respond 0 (join2 b0 b1 b2 e) s) s)

/-- FJ3.BEAT: one float from its bytes; no register is read or written (R241). -/
def execFj3Beat (f0 f1 f2 e sgn : Byte) (s : State) : Host.Outcome State Fault Refusal :=
  .next (whenReady (fun s => respond 0 (join3 f0 f1 f2 e sgn) s) s)

end Sys2Proof.Machine
end

