-- ==== Sys2Proof/Machine/Orchestrator.lean ====
section
/-! DEFINITION. The pipeline orchestrator: `decode_frame`, `decode` and DECODE (47_orchestrator.md). -/

namespace Sys2Proof.Machine

open Sys2Proof (Byte Word16 Word64)

/-- The checksum stage: the stored bytes against SUM, only if CKS is set (R253; 41_checksum.md R146). -/
def checksumStage (c : StreamCfg) (d : List Byte) : Except Stop (List Byte) :=
  if c.cks && checksum d != c.sum then .error (.raised .integrity) else .ok d

/-- The decryption stage, only if ENC is set (R253). -/
def decryptStage (c : StreamCfg) (key : Word16) (d : List Byte) : List Byte :=
  if c.enc then decrypt d key else d

/-- The decompression stage, only if COMP is set, with capacity 16 × STORED in naturals (R253, R255). -/
def decompressStage (te : TrailingEscape) (c : StreamCfg) (d : List Byte) :
    Except Stop (List Byte) :=
  if c.comp then
    match decompress te d c.dict (16 * c.stored.toNat) with
    | (out, none) => .ok out
    | (_, some e) => .error (.raised e)
  else .ok d

/-- The length check (R254). -/
def lengthStage (c : StreamCfg) (d : List Byte) : Except Stop (List Byte) :=
  if d.length = c.orig.toNat then .ok d else .error (.raised .sizeMismatch)

/-- `decode_frame(IN, c, key)`: the stages in the spec's order (R253). -/
def decodeFrame (te : TrailingEscape) (inp : Memory) (blen : Nat) (key : Word16) (c : StreamCfg) :
    Except Stop (List Byte) :=
  match memRead inp blen c.doff.toNat c.stored.toNat with
  | .error e => .error e
  | .ok d =>
    match checksumStage c d with
    | .error e => .error e
    | .ok d =>
      match decompressStage te c (decryptStage c key d) with
      | .error e => .error e
      | .ok d => lengthStage c d

/-- The streams of the frames, one after the other; the first failure ends the work (R251). -/
def decodeFrames (te : TrailingEscape) (inp : Memory) (blen : Nat) (key : Word16) :
    List StreamCfg → Except Stop (List (List Byte))
  | [] => .ok []
  | c :: cs =>
    match decodeFrame te inp blen key c with
    | .error e => .error e
    | .ok d =>
      match decodeFrames te inp blen key cs with
      | .error e => .error e
      | .ok ds => .ok (d :: ds)

/-- One stream passes through; two and three are rejoined (R251, R256). The chain analyzer lets no other
count through. -/
def combine : List (List Byte) → Except Stop (List Byte)
  | [payload] => .ok payload
  | [signfrac, exp] => rejoin2 signfrac exp
  | [frac, exp, sign] => rejoin3 frac exp sign
  | _ => .error formatStop

/-- `decode(IN, BLEN, key)` (R250, R251). -/
def decode (magic : Magic) (te : TrailingEscape) (max draw : Nat) (inp : Memory) (blen : Nat)
    (key : Word16) : Except Stop (List Byte) :=
  match analyzeChain magic draw inp blen max with
  | .error e => .error e
  | .ok frames =>
    match decodeFrames te inp blen key frames with
    | .error e => .error e
    | .ok streams => combine streams

/-- The start of DECODE: the datapath registers reset, SCANV, OUTV, NFR and OLEN cleared (R258). -/
def beginDecode (s : State) : State := { beginScan s.resetDatapath with olen := 0 }

/-- The streams in their buffers S[0..2] (10_state.md R32). -/
def fillStreams (streams : List (List Byte)) (s : State) : State :=
  { s with streams := Vector.ofFn fun f => streams.getD f.val [] }

/-- The streams of the chain's NFR frames. -/
def State.heldStreams (s : State) : List (List Byte) := s.streams.toList.take s.nfr.toNat

/-- The end of DECODE: the datapath registers reset again and the stream buffers freed (R258;
10_state.md R32). -/
def endDecode (s : State) : State :=
  { s.resetDatapath with streams := State.reset.streams, free := s.free + 1 }

/-- DECODE fails: OUT untouched, OLEN = 0, OUTV = 0 (R257, R258). -/
def failDecode (stop : Stop) (s : State) : Host.Outcome State Fault Refusal :=
  match stop with
  | .readOutside => .fault .readOutsideInput
  | .raised e => .next (takeError e [] (endDecode s))

/-- DECODE succeeds: `OUT`, `OLEN`, `OUTV <- 1`, `val` = OLEN (R257, R258, against 30_encoding.md R100:
log 15). A length of 2^64 or more does not fit OLEN: log 10. -/
def finishDecode (bytes : List Byte) (s : State) : State :=
  let olen := fit64 bytes.length s.free 0x60
  respond olen []
    { endDecode s with out := Memory.writeBytes [] 0 bytes, olen := olen, outv := true }

/-- The work of DECODE once the registers are cleared: the pre-pass, the frames, the rejoiner (R251,
R258), with TRAILING_ESCAPE `te` and MAX_STREAMS `max`. -/
def runDecode (te : TrailingEscape) (max : Nat) (key : Word16) (s : State) :
    Host.Outcome State Fault Refusal :=
  match analyzeChain Config.magic s.free s.inp s.blen.toNat max with
  | .error e => failDecode e (recordNoScan s)
  | .ok frames =>
    let s := recordScan frames s
    match decodeFrames te s.inp s.blen.toNat key frames with
    | .error e => failDecode e s
    | .ok streams =>
      let s := fillStreams streams s
      match combine s.heldStreams with
      | .error e => failDecode e s
      | .ok bytes => .next (finishDecode bytes s)

/-- DECODE key with TRAILING_ESCAPE `te` and MAX_STREAMS `max` (R258). -/
def decodeWith (te : TrailingEscape) (max : Nat) (key : Word16) (s : State) :
    Host.Outcome State Fault Refusal :=
  if s.err = 0 then runDecode te max key (beginDecode s) else .next (refuse s)

/-- DECODE key at the implementation's parameters (R258, R9; logs 12, 13). -/
def execDecode (key : Word16) (s : State) : Host.Outcome State Fault Refusal :=
  decodeWith Config.trailingEscape Config.maxStreams key s

end Sys2Proof.Machine
end

