-- ==== Sys2Proof/Machine/Dispatch.lean ====
section
/-! DEFINITION. One arm per instruction, each a direct call of its meaning. -/

namespace Sys2Proof.Machine

def exec (i : Instr) (s : State) : Host.Outcome State Fault Refusal :=
  match i with
  | .nop => Sys2Proof.Machine.execNop s
  | .rdreg r => Sys2Proof.Machine.execRdreg r s
  | .reset => Sys2Proof.Machine.execReset s
  | .ksLoad k => Sys2Proof.Machine.execKsLoad k s
  | .ksStep => Sys2Proof.Machine.execKsStep s
  | .decStart key => Sys2Proof.Machine.execDecStart key s
  | .decByte b => Sys2Proof.Machine.execDecByte b s
  | .csClear => Sys2Proof.Machine.execCsClear s
  | .csByte b => Sys2Proof.Machine.execCsByte b s
  | .csVerify x => Sys2Proof.Machine.execCsVerify x s
  | .rleDict n v => Sys2Proof.Machine.execRleDict n v s
  | .rleStart cap => Sys2Proof.Machine.execRleStart cap s
  | .rleByte b => Sys2Proof.Machine.execRleByte b s
  | .rleEnd => Sys2Proof.Machine.execRleEnd s
  | .fj2Beat b0 b1 b2 e => Sys2Proof.Machine.execFj2Beat b0 b1 b2 e s
  | .fj3Beat f0 f1 f2 e sgn => Sys2Proof.Machine.execFj3Beat f0 f1 f2 e sgn s
  | .hdrParse0 off => Sys2Proof.Machine.execHdrParse0 off s
  | .hdrParse1 off => Sys2Proof.Machine.execHdrParse1 off s
  | .hdrParse2 off => Sys2Proof.Machine.execHdrParse2 off s
  | .chainScan m => Sys2Proof.Machine.execChainScan m s
  | .decode key => Sys2Proof.Machine.execDecode key s
  | .lit b => Sys2Proof.Machine.execLit b s
  | .escLit => Sys2Proof.Machine.execEscLit s
  | .escRun count index => Sys2Proof.Machine.execEscRun count index s

end Sys2Proof.Machine
end

