-- ==== Sys2Proof/Machine/Step.lean ====
section
/-! DEFINITION. One step: the block takes what its port gives next and runs it to the end (20_memory.md
R76; 70_reset_and_hazards.md R312, R332). -/

namespace Sys2Proof.Machine

/-- One step (log 1). With nothing on the port nothing happens (R312). -/
def step (s : State) : Host.Outcome State Fault Refusal :=
  match fetch s with
  | .idle => .next s
  | .drained s => .next s
  | .illegal s => .next (takeIllegal s)
  | .run i s => exec i s

/-- The state with a table row's bits put at the front of the port, so that the next step runs them
(logs 1, 2). -/
def State.withFetchWord (s : State) (nbits w : Nat) : State := s.issue (tableRequest nbits w)

end Sys2Proof.Machine
end

