-- ==== Sys2Proof/Machine/PseudoCommands.lean ====
section
/-! DEFINITION. The pseudo-commands of 30_encoding.md R103, each the list of commands it stands for.
They add no behaviour. -/

namespace Sys2Proof.Machine

open Sys2Proof (Byte Word16 Word64)

/-- `CS.SUM b_0, ..., b_(n-1)` (R103). -/
def csSum (bytes : List Byte) : List Instr := .csClear :: bytes.map .csByte

/-- `DEC.BUF key; b_0, ..., b_(n-1)` (R103). -/
def decBuf (key : Word16) (bytes : List Byte) : List Instr := .decStart key :: bytes.map .decByte

/-- `RLE.LOADDICT d_0, ..., d_15` (R103). -/
def rleLoadDict (d : Vector Byte 16) : List Instr :=
  (List.finRange 16).map fun i => .rleDict (BitVec.ofNat 4 i.val) d[i]

/-- `RLE.BUF cap; b_0, ..., b_(n-1)` (R103). -/
def rleBuf (cap : Word64) (bytes : List Byte) : List Instr :=
  .rleStart cap :: bytes.map .rleByte ++ [.rleEnd]

/-- `KS.SEQ k, n` (R103). -/
def ksSeq (k : Word16) (n : Nat) : List Instr := .ksLoad k :: List.replicate n .ksStep

end Sys2Proof.Machine
end

