-- ==== Sys2Proof/Safety.lean ====
section
/-! DEFINITION. What a safe run is: the machine never stops (00_scope.md R14; 70_reset_and_hazards.md
R332) and its state keeps the invariant the spec's rules give it. Also the run of a list of commands
with the data it answers, which the equivalence rules R178 and R199 speak of. -/

namespace Sys2Proof.Machine

open Sys2Proof (Byte Word16 Word64)

/-- The outcome is a next state: "every command completes, in one step" (R332). -/
def Completes (o : Host.Outcome State Fault Refusal) : Prop := ∃ t, o = .next t

/-- A record of a validated chain: valid, a header of a legal length inside IN (40_header_parser.md
R127), at a multiple of 4096 with its data at the next (45_chain_analyzer.md R214), the data inside IN
(R216). -/
structure FrameOk (blen : Nat) (c : StreamCfg) : Prop where
  valid : c.valid = true
  hlen : c.hlen.toNat = 20 + 16 * c.comp.toNat + 2 * c.cks.toNat
  aligned : c.off.toNat % 4096 = 0
  doff : c.doff.toNat = c.off.toNat + 4096
  extent : c.doff.toNat + c.stored.toNat ≤ blen

/-- What holds of every state a run from reset can reach. -/
structure Invariant (s : State) : Prop where
  /-- The buffers are in canonical form (log 5). -/
  inp_wf : s.inp.wf = true
  out_wf : s.out.wf = true
  /-- Nothing is held in S outside DECODE (10_state.md R32). -/
  streams_empty : s.streams = Vector.replicate 3 []
  /-- `OCNT <= CAP` (R27). -/
  ocnt_le_cap : s.ocnt.toNat ≤ s.cap.toNat
  /-- An escape is pending only during a decompression (R26). -/
  esc_rlev : s.esc = true → s.rlev = true
  /-- The reserved bits of FLAGS are 0 (R37). -/
  flags_reserved : ∀ f : Fin 3, s.cfg[f].flags &&& 0x03 = 0
  /-- `SCANV` says NFR is 1, 2 or 3 and the first NFR records are valid (R28, R34). -/
  scan_frames : s.scanv = true →
    1 ≤ s.nfr.toNat ∧ ∀ f : Fin 3, f.val < s.nfr.toNat → FrameOk s.blen.toNat s.cfg[f]
  /-- OUT is valid only while the chain it came from is (R28). -/
  outv_scanv : s.outv = true → s.scanv = true
  /-- The response reports ERR and at most 15 bytes (30_encoding.md R100). -/
  resp_err : s.resp.err = s.err
  resp_data : s.resp.data.length ≤ 15

/-- Runs instructions one after the other; answers the last state and all the response data in order,
or nothing if the machine stops. -/
def runAll : List Instr → State → Option (State × List Byte)
  | [], s => some (s, [])
  | i :: is, s =>
    match exec i s with
    | .next t => (runAll is t).map fun r => (r.1, t.resp.data ++ r.2)
    | .fault _ => none
    | .refused _ => none

end Sys2Proof.Machine
end

