-- ==== Sys2Proof/Certificates/Slice0/Obligations.lean ====
section
/-! DEFINITION. The statements for the provers. Each says which rule of spec/ it formalises. A meaning
is stated as an equation with the whole next state, so it is the instruction's result, its frame (every
field not named is unchanged, IN and OUT with them) and its completion in one. -/

open Sys2Proof Sys2Proof.Machine

namespace Sys2Proof.Certificates

/-- `s` with the response a command answers (30_encoding.md R100). -/
def answered (s : State) (val : Word64) (data : List Byte) : State :=
  { s with resp := { err := s.err, val := val, data := data } }

/-- `s` when a command raises error `code` with ERR = 0 before (60_exceptions.md R280). -/
def stopped (s : State) (code : BitVec 3) (data : List Byte) : State :=
  { s with err := code, resp := { err := code, val := 0, data := data } }

/-- A command refused in the error state (R281). -/
def refusedIn (i : Instr) (s : State) : Prop := s.err ≠ 0 → exec i s = .next (answered s 0 [])

end Sys2Proof.Certificates

open Sys2Proof.Certificates

/-! ### Encoding and the step -/

/-- R94 to R98: no bit of an encoding is dropped. -/
def Obligations.DecodeOfEncode : Prop :=
  ∀ i : Instr, WellFormed i → decodeRequest (encode i) = .ok i

/-- R98, R99: reserved bits must be zero, so an instruction has one encoding only. -/
def Obligations.EncodeOfDecode : Prop :=
  ∀ (r : Request) (i : Instr), decodeRequest r = .ok i → WellFormed i ∧ encode i = r

/-- R97, R98, R99: an opcode outside the table is refused as unassigned; a reserved bit set in a format
that has reserved bits is refused as such. The pairs are the opcode and the bits its format names. -/
def Obligations.IllegalWordsAreRejected : Prop :=
  (∀ (op : BitVec 8) (arg : Word64),
    op.toNat ∉ [0x00, 0x01, 0x02, 0x10, 0x11, 0x20, 0x21, 0x30, 0x31, 0x32, 0x40, 0x41, 0x42, 0x43,
      0x50, 0x51, 0x60, 0x61, 0x62, 0x64, 0x68] →
    decodeCommand (commandWord op arg) = .error .unassignedOpcode) ∧
  ∀ p ∈ [((0x00 : BitVec 8), 0), (0x01, 8), (0x02, 0), (0x10, 16), (0x11, 0), (0x20, 16), (0x21, 8),
      (0x30, 0), (0x31, 8), (0x32, 16), (0x40, 12), (0x42, 8), (0x43, 0), (0x50, 32), (0x51, 40),
      (0x64, 8), (0x68, 16)],
    ∀ arg : Word64, arg.toNat / 2 ^ p.2 ≠ 0 →
      decodeCommand (commandWord p.1 arg) = .error .reservedBits

/-- Words of programs P1 to P6 (95_test_vectors.md), one of each family. -/
def Obligations.SpecWordsDecode : Prop :=
  decodeTableWord 72 0x010000000000000002 = some (.rdreg 0x02) ∧
  decodeTableWord 72 0x100000000000001337 = some (.ksLoad 0x1337) ∧
  decodeTableWord 72 0x210000000000000048 = some (.decByte 0x48) ∧
  decodeTableWord 72 0x3200000000000002AE = some (.csVerify 0x02AE) ∧
  decodeTableWord 72 0x400000000000000358 = some (.rleDict 3 0x58) ∧
  decodeTableWord 72 0x500000000080800000 = some (.fj2Beat 0x00 0x00 0x80 0x80) ∧
  decodeTableWord 72 0x510000000180C90FDB = some (.fj3Beat 0xDB 0x0F 0xC9 0x80 0x01) ∧
  decodeTableWord 72 0x610000000000002000 = some (.hdrParse1 8192) ∧
  decodeTableWord 72 0x640000000000000003 = some (.chainScan 3) ∧
  decodeTableWord 72 0x680000000000001338 = some (.decode 0x1338) ∧
  decodeTableWord 16 0x0723 = some (.escRun 2 3)

/-- R97, R101: the step takes the instruction at the front of the port off it and is `exec` of it: a
command word, or the first token of a stream, whose other bytes stay at the front. -/
def Obligations.StepRunsDecodedInstruction : Prop :=
  ∀ (s : State) (i : Instr) (port : List Request),
    (∀ w, s.port = .command w :: port → decodeCommand w = .ok i →
      step s = exec i { s with port := port }) ∧
    (∀ bytes, s.port = .stream bytes :: port → decodeToken bytes = .ok (i, []) →
      step s = exec i { s with port := port }) ∧
    (∀ bytes b left, s.port = .stream bytes :: port → decodeToken bytes = .ok (i, b :: left) →
      step s = exec i { s with port := .stream (b :: left) :: port })

/-- R99, R280, R281, R312: with nothing on the port nothing happens; an illegal command word changes no
state except that it raises ProtocolError, which a latched error outlasts; and the model's stream (log 2):
an empty one is dropped, a lone sentinel at its end is one beat. -/
def Obligations.StepWithoutInstruction : Prop :=
  ∀ (s : State) (port : List Request),
    (s.port = [] → step s = .next s) ∧
    (∀ w e, s.port = .command w :: port → decodeCommand w = .error e → s.err = 0 →
      step s = .next (stopped { s with port := port } 7 [])) ∧
    (∀ w e, s.port = .command w :: port → decodeCommand w = .error e → s.err ≠ 0 →
      step s = .next (answered { s with port := port } 0 [])) ∧
    (s.port = .stream [] :: port → step s = .next { s with port := port }) ∧
    (s.port = .stream [0x07] :: port → step s = exec (.rleByte 0x07) { s with port := port })

/-! ### Control commands, registers, reset -/

/-- R260. -/
def Obligations.NopMeaning : Prop :=
  (∀ s : State, exec .nop s = .next (answered s 0 [])) ∧
  ∀ (s : State) (arg : Word64) (port : List Request), arg ≠ 0 →
    s.port = .command (commandWord 0x00 arg) :: port →
    (s.err = 0 → step s = .next (stopped { s with port := port } 7 [])) ∧
    (s.err ≠ 0 → step s = .next (answered { s with port := port } 0 []))

/-- R28: the bits of STAT. -/
def Obligations.StatBits : Prop :=
  ∀ s : State, s.stat.getLsbD 0 = s.ksv ∧ s.stat.getLsbD 1 = s.dpos.getLsbD 0 ∧
    s.stat.getLsbD 2 = s.csv ∧ s.stat.getLsbD 3 = s.rlev ∧ s.stat.getLsbD 4 = s.esc ∧
    s.stat.getLsbD 5 = s.scanv ∧ s.stat.getLsbD 6 = s.outv ∧
    ∀ i, 7 ≤ i → s.stat.getLsbD i = false

/-- R30, R36, R262: RDREG answers each register that has a value, zero-extended, in every state, and
changes nothing. HLEN of a record whose checksum field is short has one though VALID is 0 (R126, 93 U4);
that a bit of the record says so is the model's, log 8. -/
def Obligations.RdregAnswersRegisters : Prop :=
  ∀ s : State,
    (s.ksv = true → exec (.rdreg 0x00) s = .next (answered s (s.ks.setWidth 64) [])) ∧
    (s.csv = true → exec (.rdreg 0x01) s = .next (answered s (s.cs.setWidth 64) [])) ∧
    exec (.rdreg 0x02) s = .next (answered s (s.stat.setWidth 64) []) ∧
    exec (.rdreg 0x03) s = .next (answered s (s.err.setWidth 64) []) ∧
    exec (.rdreg 0x04) s = .next (answered s s.dpos []) ∧
    exec (.rdreg 0x05) s = .next (answered s s.rpos []) ∧
    exec (.rdreg 0x06) s = .next (answered s s.ocnt []) ∧
    exec (.rdreg 0x07) s = .next (answered s s.cap []) ∧
    exec (.rdreg 0x09) s = .next (answered s (s.dv.setWidth 64) []) ∧
    exec (.rdreg 0x0A) s = .next (answered s (s.nfr.setWidth 64) []) ∧
    exec (.rdreg 0x0B) s = .next (answered s s.olen []) ∧
    exec (.rdreg 0x0C) s = .next (answered s s.blen []) ∧
    (∀ i : Fin 16, s.dv.getLsbD i = true →
      exec (.rdreg (BitVec.ofNat 8 (0x10 + i))) s = .next (answered s (s.dict[i].setWidth 64) [])) ∧
    ∀ f : Fin 3,
      let reg (k : Nat) (v : Word64) : Prop :=
        exec (.rdreg (BitVec.ofNat 8 (0x40 + 0x20 * f + k))) s = .next (answered s v [])
      reg 0 (if s.cfg[f].valid then 1 else 0) ∧
      (s.cfg[f].shortSum = true → reg 1 (s.cfg[f].hlen.setWidth 64)) ∧
      (s.cfg[f].valid = true →
        reg 1 (s.cfg[f].hlen.setWidth 64) ∧ reg 2 (s.cfg[f].flags.setWidth 64) ∧
        reg 3 s.cfg[f].orig ∧ reg 4 s.cfg[f].stored ∧ reg 5 (s.cfg[f].sum.setWidth 64) ∧
        reg 6 s.cfg[f].off ∧ reg 7 s.cfg[f].doff ∧
        ∀ i : Fin 16, reg (0x10 + i) (s.cfg[f].dict[i].setWidth 64))

/-- R30, R262 and 93 U7: RDREG of a data register whose valid bit is 0 is no error; it answers some value
of the register's width and changes nothing. That the value is a free one, counted in `free`, is the
model's: log 6. -/
def Obligations.RdregOfUnspecified : Prop :=
  ∀ s : State,
    let reg (r : Nat) (bound : Nat) : Prop := ∃ v : Word64, v.toNat < bound ∧
      exec (.rdreg (BitVec.ofNat 8 r)) s = .next (answered { s with free := s.free + 1 } v [])
    (s.ksv = false → reg 0x00 (2 ^ 16)) ∧ (s.csv = false → reg 0x01 (2 ^ 16)) ∧
    (∀ i : Fin 16, s.dv.getLsbD i = false → reg (0x10 + i) (2 ^ 8)) ∧
    ∀ f : Fin 3, s.cfg[f].valid = false →
      (s.cfg[f].shortSum = false → reg (0x41 + 0x20 * f) (2 ^ 8)) ∧ reg (0x42 + 0x20 * f) (2 ^ 8) ∧
      reg (0x43 + 0x20 * f) (2 ^ 64) ∧ reg (0x44 + 0x20 * f) (2 ^ 64) ∧
      reg (0x45 + 0x20 * f) (2 ^ 16) ∧ reg (0x46 + 0x20 * f) (2 ^ 64) ∧
      reg (0x47 + 0x20 * f) (2 ^ 64) ∧ ∀ i : Fin 16, reg (0x50 + 0x20 * f + i) (2 ^ 8)

/-- R30, R36, R262: the unassigned numbers raise ProtocolError when ERR = 0, with `val` 0, and change
nothing otherwise. -/
def Obligations.RdregOfUnassigned : Prop :=
  ∀ (s : State) (r : BitVec 8),
    (r.toNat = 0x08 ∨ (0x0D ≤ r.toNat ∧ r.toNat < 0x10) ∨ (0x20 ≤ r.toNat ∧ r.toNat < 0x40) ∨
      0xA0 ≤ r.toNat ∨
      (0x40 ≤ r.toNat ∧ r.toNat < 0xA0 ∧ 8 ≤ r.toNat % 0x20 ∧ r.toNat % 0x20 < 0x10)) →
    (s.err = 0 → exec (.rdreg r) s = .next (stopped s 7 [])) ∧
    (s.err ≠ 0 → exec (.rdreg r) s = .next (answered s 0 []))

/-- R41, R261, R310: RESET in any state. The data registers it leaves unspecified are not spoken of. -/
def Obligations.ResetMeaning : Prop :=
  ∀ s : State, ∃ t : State, exec .reset s = .next t ∧
    t.err = 0 ∧ t.stat = 0 ∧ t.dpos = 0 ∧ t.dv = 0 ∧ t.esc = false ∧ t.rlev = false ∧ t.rpos = 0 ∧
    t.ocnt = 0 ∧ t.cap = 0 ∧ t.nfr = 0 ∧ (∀ f : Fin 3, t.cfg[f].valid = false) ∧
    (∀ f : Fin 3, t.streams[f] = []) ∧ t.out = [] ∧ t.olen = 0 ∧ t.outv = false ∧
    t.scanv = false ∧ t.ksv = false ∧ t.csv = false ∧
    t.inp = s.inp ∧ t.blen = s.blen ∧ t.port = s.port ∧
    t.resp = { err := 0, val := 0, data := [] }

/-- R311: what power-on reset leaves, the data registers it leaves unspecified not spoken of. -/
def Obligations.PowerOnState : Prop :=
  let s := State.reset
  s.dpos = 0 ∧ s.esc = false ∧ s.rlev = false ∧ s.rpos = 0 ∧ s.ocnt = 0 ∧ s.cap = 0 ∧ s.err = 0 ∧
    s.nfr = 0 ∧ s.olen = 0 ∧ s.ksv = false ∧ s.csv = false ∧ s.dv = 0 ∧ s.scanv = false ∧
    s.outv = false ∧ s.stat = 0 ∧ s.out = [] ∧ (∀ f : Fin 3, s.cfg[f].valid = false) ∧
    ∀ f : Fin 3, s.streams[f] = []

/-- R281: while ERR is not 0 every command but NOP, RDREG and RESET is refused, whatever its operands;
the tokens too, being RLE.BYTE beats (log 2). Nothing but RESET changes ERR then. -/
def Obligations.ErrorStateRefuses : Prop :=
  ∀ (i : Instr) (s : State), s.err ≠ 0 → i ≠ .reset →
    (i ≠ .nop → (∀ r, i ≠ .rdreg r) → exec i s = .next (answered s 0 [])) ∧
    ∃ t, exec i s = .next t ∧ t.err = s.err

/-! ### Keystream generator -/

/-- R159. -/
def Obligations.KsLoadMeaning : Prop :=
  ∀ (s : State) (k : Word16),
    (s.err = 0 → exec (.ksLoad k) s = .next (answered { s with ks := k, ksv := true } 0 [])) ∧
    refusedIn (.ksLoad k) s ∧
    decodeCommand (commandWord 0x10 (k.setWidth 64)) = .ok (.ksLoad k)

/-- R155, R160: the new KS is `(KS >> 1) | (n << 15)`, n the XOR of bits 0, 6, 9 and 13. -/
def Obligations.KsStepMeaning : Prop :=
  ∀ s : State,
    let n := s.ks ^^^ (s.ks >>> 6) ^^^ (s.ks >>> 9) ^^^ (s.ks >>> 13)
    let ks := (s.ks >>> 1) ||| ((n &&& 1) <<< 15)
    (s.err = 0 → s.ksv = true →
      exec .ksStep s = .next (answered { s with ks := ks } (ks.setWidth 64) [])) ∧
    (s.err = 0 → s.ksv = false → exec .ksStep s = .next (stopped s 7 [])) ∧
    refusedIn .ksStep s ∧ decodeCommand (commandWord 0x11 0) = .ok .ksStep

/-- R156: the inverse step the rule gives. -/
def Obligations.LfsrStepInverse : Prop :=
  ∀ s : Word16, lfsrBack (lfsrStep s) = s ∧ lfsrStep (lfsrBack s) = s

/-- R156: from every nonzero seed, 65535 steps return to it and no fewer do. -/
def Obligations.LfsrMaximalPeriod : Prop :=
  ∀ s : Word16, s ≠ 0 → lfsrIter 65535 s = s ∧ ∀ k, 0 < k → k < 65535 → lfsrIter k s ≠ s

/-! ### Decryptor -/

/-- R176, with the key's step spelt out as in R155. -/
def Obligations.DecStartMeaning : Prop :=
  ∀ (s : State) (key : Word16),
    let n := key ^^^ (key >>> 6) ^^^ (key >>> 9) ^^^ (key >>> 13)
    (s.err = 0 → exec (.decStart key) s = .next (answered
      { s with ks := (key >>> 1) ||| ((n &&& 1) <<< 15), ksv := true, dpos := 0 } 0 [])) ∧
    refusedIn (.decStart key) s ∧
    decodeCommand (commandWord 0x20 (key.setWidth 64)) = .ok (.decStart key)

/-- R177. DPOS counts the byte; only a count of 2^64, which R23 says cannot come, leaves it open
(log 9, the model's), and then all else is the same. -/
def Obligations.DecByteMeaning : Prop :=
  ∀ (s : State) (b : Byte),
    (s.err = 0 → s.ksv = true → ∃ (dpos : Word64) (free : Nat),
      (s.dpos.toNat + 1 < 2 ^ 64 → dpos = s.dpos + 1 ∧ free = s.free) ∧
      (s.dpos.getLsbD 0 = false → exec (.decByte b) s =
        .next (answered { s with dpos := dpos, free := free } 0 [b ^^^ s.ks.setWidth 8])) ∧
      (s.dpos.getLsbD 0 = true → exec (.decByte b) s =
        .next (answered { s with ks := lfsrStep s.ks, dpos := dpos, free := free } 0
          [b ^^^ (s.ks >>> 8).setWidth 8]))) ∧
    (s.err = 0 → s.ksv = false → exec (.decByte b) s = .next (stopped s 7 [])) ∧
    refusedIn (.decByte b) s ∧
    decodeCommand (commandWord 0x21 (b.setWidth 64)) = .ok (.decByte b)

/-- R170, R180: the output is as long as the input and byte `j` is XORed with the low byte, for even
`j`, or the high byte, for odd `j`, of the key stepped `j/2 + 1` times. -/
def Obligations.DecryptClosedForm : Prop :=
  ∀ (input : List Byte) (key : Word16), (decrypt input key).length = input.length ∧
    ∀ (j : Nat) (b : Byte), input[j]? = some b →
      (decrypt input key)[j]? =
        some (b ^^^ ((lfsrIter (j / 2 + 1) key) >>> (8 * (j % 2))).setWidth 8)

/-- R175, R179: decrypting twice with one key restores the data, and key zero is the identity. -/
def Obligations.DecryptIdentities : Prop :=
  (∀ (d : List Byte) (k : Word16), decrypt (decrypt d k) k = d) ∧ ∀ d : List Byte, decrypt d 0 = d

/-- R178: DEC.START and the DEC.BYTEs answer `decrypt(input, key)` and end with KS stepped
`n div 2 + 1` times from the key and DPOS = n. -/
def Obligations.DecBufRefinesDecrypt : Prop :=
  ∀ (s : State) (key : Word16) (input : List Byte), s.err = 0 → input.length < 2 ^ 64 →
    ∃ t : State, runAll (decBuf key input) s = some (t, decrypt input key) ∧
      t.ks = lfsrIter (input.length / 2 + 1) key ∧ t.dpos.toNat = input.length ∧ t.err = 0

/-! ### Checksum -/

/-- R142. -/
def Obligations.CsClearMeaning : Prop :=
  ∀ s : State,
    (s.err = 0 → exec .csClear s = .next (answered { s with cs := 0, csv := true } 0 [])) ∧
    refusedIn .csClear s ∧ decodeCommand (commandWord 0x30 0) = .ok .csClear

/-- R143. -/
def Obligations.CsByteMeaning : Prop :=
  ∀ (s : State) (b : Byte),
    (s.err = 0 → s.csv = true → exec (.csByte b) s =
      .next (answered { s with cs := BitVec.ofNat 16 (s.cs.toNat + b.toNat) } 0 [])) ∧
    (s.err = 0 → s.csv = false → exec (.csByte b) s = .next (stopped s 7 [])) ∧
    refusedIn (.csByte b) s ∧
    decodeCommand (commandWord 0x31 (b.setWidth 64)) = .ok (.csByte b)

/-- R145. -/
def Obligations.CsVerifyMeaning : Prop :=
  ∀ (s : State) (x : Word16),
    (s.err = 0 → s.csv = true → s.cs = x → exec (.csVerify x) s = .next (answered s 0 [])) ∧
    (s.err = 0 → s.csv = true → s.cs ≠ x → exec (.csVerify x) s = .next (stopped s 2 [])) ∧
    (s.err = 0 → s.csv = false → exec (.csVerify x) s = .next (stopped s 7 [])) ∧
    refusedIn (.csVerify x) s ∧
    decodeCommand (commandWord 0x32 (x.setWidth 64)) = .ok (.csVerify x)

/-- R140: the sum of the bytes, unsigned, modulo 65536. -/
def Obligations.ChecksumIsSum : Prop :=
  ∀ bytes : List Byte, (checksum bytes).toNat = (bytes.map BitVec.toNat).sum % 65536

/-- R141, (a) to (f). -/
def Obligations.ChecksumLaws : Prop :=
  checksum [0x01, 0x03, 0x04] = 0x08 ∧ checksum (List.replicate 257 0xFF) = 0xFFFF ∧
  checksum (List.replicate 258 0xFF) = 0x00FE ∧
  (∀ s t : List Byte, s.Perm t → checksum s = checksum t) ∧ checksum [] = 0 ∧
  (∀ s t : List Byte, checksum (s ++ t) = checksum s + checksum t) ∧
  ∀ (s : List Byte) (n : Nat), checksum (s ++ List.replicate n 0) = checksum s

/-- R143: folding CS.BYTE after CS.CLEAR leaves the checksum in CS. -/
def Obligations.CsSumRefinesChecksum : Prop :=
  ∀ (s : State) (bytes : List Byte), s.err = 0 →
    runAll (csSum bytes) s =
      some (answered { s with cs := checksum bytes, csv := true } 0 [], [])

/-! ### Decompressor -/

/-- R195. -/
def Obligations.RleDictMeaning : Prop :=
  ∀ (s : State) (i : BitVec 4) (v : Byte),
    (s.err = 0 → s.rlev = false → ∃ (dict : Vector Byte 16) (dv : BitVec 16),
      exec (.rleDict i v) s = .next (answered { s with dict := dict, dv := dv } 0 []) ∧
      ∀ j : Fin 16, dict[j] = (if j.val = i.toNat then v else s.dict[j]) ∧
        dv.getLsbD j = (j.val == i.toNat || s.dv.getLsbD j)) ∧
    (s.err = 0 → s.rlev = true → exec (.rleDict i v) s = .next (stopped s 7 [])) ∧
    refusedIn (.rleDict i v) s ∧
    decodeCommand (commandWord 0x40 (BitVec.ofNat 64 (i.toNat * 256 + v.toNat))) = .ok (.rleDict i v)

/-- R196. -/
def Obligations.RleStartMeaning : Prop :=
  ∀ (s : State) (cap : Word64),
    (s.err = 0 → exec (.rleStart cap) s = .next (answered
      { s with cap := cap, rpos := 0, ocnt := 0, esc := false, rlev := true } 0 [])) ∧
    refusedIn (.rleStart cap) s ∧ decodeCommand (commandWord 0x41 cap) = .ok (.rleStart cap)

/-- R197, with OCNT <= CAP (the invariant of R27). `out` is what the byte's token emits; RPOS counts the
byte, and only a count of 2^64 leaves it open (R23; log 9, the model's). -/
def Obligations.RleByteMeaning : Prop :=
  ∀ (s : State) (b : Byte), s.ocnt.toNat ≤ s.cap.toNat →
    (s.err = 0 → s.rlev = true → ∃ (rpos : Word64) (free : Nat),
      (s.rpos.toNat + 1 < 2 ^ 64 → rpos = s.rpos + 1 ∧ free = s.free) ∧
      let t : State := { s with rpos := rpos, free := free, esc := false }
      let room := s.cap.toNat - s.ocnt.toNat
      let emits (out : List Byte) : Prop :=
        (out.length ≤ room → exec (.rleByte b) s =
          .next (answered { t with ocnt := BitVec.ofNat 64 (s.ocnt.toNat + out.length) } 0 out)) ∧
        (room < out.length → exec (.rleByte b) s =
          .next (stopped { t with ocnt := s.cap, rlev := false } 4 (out.take room)))
      (s.esc = false → b = 0x07 →
        exec (.rleByte b) s = .next (answered { t with esc := true } 0 [])) ∧
      (s.esc = false → b ≠ 0x07 → emits [b]) ∧
      (s.esc = true → b = 0x00 → emits [0x07]) ∧
      (s.esc = true → b ≠ 0x00 → b.toNat / 16 = 0 → emits []) ∧
      ∀ i : Fin 16, i.val = b.toNat % 16 → s.esc = true → b.toNat / 16 ≠ 0 →
        (s.dv.getLsbD i = true → emits (List.replicate (b.toNat / 16) s.dict[i])) ∧
        (s.dv.getLsbD i = false → exec (.rleByte b) s = .next (stopped t 7 []))) ∧
    (s.err = 0 → s.rlev = false → exec (.rleByte b) s = .next (stopped s 7 [])) ∧
    refusedIn (.rleByte b) s ∧
    decodeCommand (commandWord 0x42 (b.setWidth 64)) = .ok (.rleByte b)

/-- R198, R192, 93 U3: RLE.END. A pending escape ends as the implementation's TRAILING_ESCAPE (R9, log 13)
says, here for OCNT <= CAP (the invariant of R27). -/
def Obligations.RleEndMeaning : Prop :=
  ∀ s : State,
    (s.err = 0 → s.rlev = true → s.esc = false →
      exec .rleEnd s = .next (answered { s with rlev := false } s.ocnt [])) ∧
    (s.err = 0 → s.rlev = true → s.esc = true → s.ocnt.toNat ≤ s.cap.toNat →
      let t : State := { s with rlev := false, esc := false }
      exec .rleEnd s = .next (match Config.trailingEscape with
        | .error => stopped t 6 []
        | .literal =>
          if s.ocnt.toNat < s.cap.toNat then
            answered { t with ocnt := s.ocnt + 1 } (s.ocnt + 1) [0x07]
          else stopped t 4 [])) ∧
    (s.err = 0 → s.rlev = false → exec .rleEnd s = .next (stopped s 7 [])) ∧
    refusedIn .rleEnd s ∧ decodeCommand (commandWord 0x43 0) = .ok .rleEnd

/-- R192, R198 and 93 U3: a pending escape at the end, for each value TRAILING_ESCAPE can have, RLE.END
being the one at the implementation's. With `error` it raises TruncatedEscapeError; with `literal` it is
emitted as one byte 0x07, the capacity check included, and `val` is OCNT after that emit. -/
def Obligations.RleFinishEscape : Prop :=
  (∀ s : State, exec .rleEnd s = .next (rleFinish Config.trailingEscape s)) ∧
  ∀ s : State, s.err = 0 → s.rlev = true → s.esc = true →
    let t : State := { s with rlev := false, esc := false }
    rleFinish .error s = stopped t 6 [] ∧
    (s.ocnt.toNat < s.cap.toNat →
      rleFinish .literal s = answered { t with ocnt := s.ocnt + 1 } (s.ocnt + 1) [0x07]) ∧
    (s.ocnt = s.cap → rleFinish .literal s = stopped t 4 [])

/-- R187, R188, R189. In every state a token is the RLE.BYTE beats of its bytes, their data together: that
this is one step of the machine is the model's, log 2. At a token boundary with room for what it emits:
the bytes emitted and the bytes consumed. -/
def Obligations.TokenMeanings : Prop :=
  (∀ (s : State) (b : Byte), exec (.lit b) s = exec (.rleByte b) s) ∧
  (∀ s s₁ s₂ : State, exec (.rleByte 0x07) s = .next s₁ →
    let joined : State := { s₂ with
      resp := { s₂.resp with data := s₁.resp.data ++ s₂.resp.data } }
    (exec (.rleByte 0x00) s₁ = .next s₂ → exec .escLit s = .next joined) ∧
    ∀ count index : BitVec 4,
      exec (.rleByte (BitVec.ofNat 8 (count.toNat * 16 + index.toNat))) s₁ = .next s₂ →
        exec (.escRun count index) s = .next joined) ∧
  ∀ s : State, s.err = 0 → s.rlev = true → s.esc = false → s.rpos.toNat + 2 < 2 ^ 64 →
    let room := s.cap.toNat - s.ocnt.toNat
    (∀ b : Byte, b ≠ 0x07 → 1 ≤ room → exec (.lit b) s =
      .next (answered { s with rpos := s.rpos + 1, ocnt := s.ocnt + 1 } 0 [b])) ∧
    (1 ≤ room → exec .escLit s =
      .next (answered { s with rpos := s.rpos + 2, ocnt := s.ocnt + 1 } 0 [0x07])) ∧
    ∀ (count index : BitVec 4) (j : Fin 16), j.val = index.toNat → (count ≠ 0 ∨ index ≠ 0) →
      count.toNat ≤ room → (count = 0 ∨ s.dv.getLsbD j = true) → exec (.escRun count index) s =
        .next (answered
          { s with rpos := s.rpos + 2, ocnt := BitVec.ofNat 64 (s.ocnt.toNat + count.toNat) } 0
          (List.replicate count.toNat s.dict[j]))

/-- R187, R188, R189, R190: a token whose output does not fit delivers the bytes that fit and raises
CapacityError. -/
def Obligations.TokensAtCapacity : Prop :=
  ∀ s : State, s.err = 0 → s.rlev = true → s.esc = false → s.rpos.toNat + 2 < 2 ^ 64 →
    s.ocnt.toNat ≤ s.cap.toNat →
    let room := s.cap.toNat - s.ocnt.toNat
    let full (n : Word64) : State := { s with rpos := s.rpos + n, ocnt := s.cap, rlev := false }
    (∀ b : Byte, b ≠ 0x07 → room = 0 → exec (.lit b) s = .next (stopped (full 1) 4 [])) ∧
    (room = 0 → exec .escLit s = .next (stopped (full 2) 4 [])) ∧
    ∀ (count index : BitVec 4) (j : Fin 16), j.val = index.toNat → s.dv.getLsbD j = true →
      room < count.toNat → exec (.escRun count index) s =
        .next (stopped (full 2) 4 (List.replicate room s.dict[j]))

/-- R191: a scan emits at most 15 bytes for two, and with a capacity of that bound (so with 16 times the
input) it never raises CapacityError. -/
def Obligations.DecompressExpansion : Prop :=
  ∀ (te : TrailingEscape) (input : List Byte) (dict : Vector Byte 16) (cap : Nat),
    (decompress te input dict cap).1.length ≤ 15 * (input.length / 2) + input.length % 2 ∧
    (15 * (input.length / 2) + input.length % 2 ≤ cap → (decompress te input dict cap).2 ≠ some .capacity)

/-- R190: the output never exceeds `cap`; CapacityError comes exactly when an unlimited scan emits more
than `cap` bytes, and the output is then the first `cap` of them; otherwise the scan is the unlimited
one. -/
def Obligations.DecompressCapacity : Prop :=
  ∀ (te : TrailingEscape) (input : List Byte) (dict : Vector Byte 16) (cap : Nat),
    let limited := decompress te input dict cap
    let unlimited := decompress te input dict (16 * input.length)
    limited.1 = unlimited.1.take cap ∧
    (limited.2 = some .capacity ↔ cap < unlimited.1.length) ∧
    (unlimited.1.length ≤ cap → limited = unlimited)

/-- R199: with every dictionary entry written, RLE.START, the RLE.BYTEs and RLE.END answer the output of
`decompress` and latch its status (what follows an error is refused and answers nothing), both at the
implementation's TRAILING_ESCAPE (R9, log 13). -/
def Obligations.RleBufRefinesDecompress : Prop :=
  ∀ (s : State) (cap : Word64) (input : List Byte), s.err = 0 → s.dv = 0xFFFF →
    let result := decompress Config.trailingEscape input s.dict cap.toNat
    ∃ t : State, runAll (rleBuf cap input) s = some (t, result.1) ∧
      t.err = (match result.2 with
        | none => 0
        | some e => e.code)

/-! ### Float rejoiner -/

/-- R230, R232, R240: the data are the bytes, least significant first, of the word with b2's top bit as
sign, `e` as exponent and b2, b1, b0 as fraction. -/
def Obligations.Fj2BeatMeaning : Prop :=
  ∀ (s : State) (b0 b1 b2 e : Byte),
    let w : BitVec 32 := ((b2.setWidth 32 >>> 7) <<< 31) ||| (e.setWidth 32 <<< 23) |||
      ((b2.setWidth 32 &&& 0x7F) <<< 16) ||| (b1.setWidth 32 <<< 8) ||| b0.setWidth 32
    (s.err = 0 → exec (.fj2Beat b0 b1 b2 e) s = .next (answered s 0
      [w.extractLsb' 0 8, w.extractLsb' 8 8, w.extractLsb' 16 8, w.extractLsb' 24 8])) ∧
    refusedIn (.fj2Beat b0 b1 b2 e) s ∧
    decodeCommand (commandWord 0x50 (b0.setWidth 64 ||| (b1.setWidth 64 <<< 8) |||
      (b2.setWidth 64 <<< 16) ||| (e.setWidth 64 <<< 24))) = .ok (.fj2Beat b0 b1 b2 e)

/-- R237, R241: as FJ2.BEAT with the sign from bit 7 of `sgn` (FJ3_LAYOUT at the spec's default). -/
def Obligations.Fj3BeatMeaning : Prop :=
  ∀ (s : State) (f0 f1 f2 e sgn : Byte),
    let w : BitVec 32 := ((sgn.setWidth 32 >>> 7) <<< 31) ||| (e.setWidth 32 <<< 23) |||
      ((f2.setWidth 32 &&& 0x7F) <<< 16) ||| (f1.setWidth 32 <<< 8) ||| f0.setWidth 32
    (s.err = 0 → exec (.fj3Beat f0 f1 f2 e sgn) s = .next (answered s 0
      [w.extractLsb' 0 8, w.extractLsb' 8 8, w.extractLsb' 16 8, w.extractLsb' 24 8])) ∧
    refusedIn (.fj3Beat f0 f1 f2 e sgn) s ∧
    decodeCommand (commandWord 0x51 (f0.setWidth 64 ||| (f1.setWidth 64 <<< 8) |||
      (f2.setWidth 64 <<< 16) ||| (e.setWidth 64 <<< 24) ||| (sgn.setWidth 64 <<< 32))) = .ok (.fj3Beat f0 f1 f2 e sgn)

/-- R231, R233, R237: the length rules, and byte `4i + k` of the output is byte `k` of float `i`. -/
def Obligations.RejoinFunctions : Prop :=
  (∀ a e : List Byte,
    (a.length ≠ 3 * e.length → rejoin2 a e = .error (.raised .rejoinLength)) ∧
    (a.length = 3 * e.length → ∃ out, rejoin2 a e = .ok out ∧ out.length = 4 * e.length ∧
      ∀ i, i < e.length → (out.drop (4 * i)).take 4 =
        join2 (a.getD (3 * i) 0) (a.getD (3 * i + 1) 0) (a.getD (3 * i + 2) 0) (e.getD i 0))) ∧
  ∀ a e g : List Byte,
    (¬ (a.length = 3 * e.length ∧ g.length = e.length) →
      rejoin3 a e g = .error (.raised .rejoinLength)) ∧
    (a.length = 3 * e.length → g.length = e.length →
      ∃ out, rejoin3 a e g = .ok out ∧ out.length = 4 * e.length ∧
      ∀ i, i < e.length → (out.drop (4 * i)).take 4 =
        join3 (a.getD (3 * i) 0) (a.getD (3 * i + 1) 0) (a.getD (3 * i + 2) 0) (e.getD i 0)
          (g.getD i 0))

/-- R235: the inverse mapping recovers every input bit, and every output is reached. -/
def Obligations.Join2Bijection : Prop :=
  (∀ b0 b1 b2 e : Byte, ∃ o2 o3 : Byte, join2 b0 b1 b2 e = [b0, b1, o2, o3] ∧
    b2 = ((o3 &&& 0x80) ||| (o2 &&& 0x7F)) ∧ e = (((o3 &&& 0x7F) <<< 1) ||| (o2 >>> 7))) ∧
  ∀ o0 o1 o2 o3 : Byte,
    join2 o0 o1 ((o3 &&& 0x80) ||| (o2 &&& 0x7F)) (((o3 &&& 0x7F) <<< 1) ||| (o2 >>> 7))
      = [o0, o1, o2, o3]

/-! ### Header parser -/

/-- R130: HDR.PARSE.f in the three slots. The record is `parse_header` of at most 38 bytes of IN from
`off`, with OFF and DOFF; DOFF is open only where align_up does not fit 64 bits (log 10, the model's). -/
def Obligations.HdrParseMeaning : Prop :=
  ∀ (s : State) (off : Word64) (f : Fin 3) (i : Instr),
    i = (match f with
      | 0 => .hdrParse0 off
      | 1 => .hdrParse1 off
      | 2 => .hdrParse2 off) →
    (s.err = 0 → ∃ doff : Word64,
      let length := s.blen.toNat - off.toNat
      let c := parseHeader Config.magic s.free f (s.inp.readRange off.toNat (min length 38)) length
      exec i s = .next (answered { s with
        cfg := s.cfg.set f { c with off := off, doff := doff }, scanv := false, outv := false,
        free := s.free + 1 } (if c.valid then 1 else 0) []) ∧
      (alignUp (off.toNat + c.hlen.toNat) < 2 ^ 64 →
        doff.toNat = alignUp (off.toNat + c.hlen.toNat))) ∧
    refusedIn i s

/-- R121, R122, R129 (a), (b): fewer than 20 bytes, or any one magic byte wrong, is invalid. That such a
record does not bear shortSum, the model's own mark of R126's case, is no rule of the spec: log 8. -/
def Obligations.ParseHeaderFailsClosed : Prop :=
  ∀ (magic : Magic) (draw f length : Nat) (bytes : List Byte),
    let c := parseHeader magic draw f bytes length
    (length < 20 → c.valid = false ∧ c.shortSum = false) ∧
    (bytes.getD 0 0 ≠ magic.m0 ∨ bytes.getD 1 0 ≠ magic.m1 ∨ bytes.getD 2 0 ≠ magic.m2 →
      c.valid = false ∧ c.shortSum = false)

/-- R123 to R128: a header of at least 20 bytes with the right magic. It is valid exactly when the optional
fields are there; the fields of a valid one (R91, R123, R124, R125, R127); HLEN of one whose checksum
field is short, and that the model's mark shortSum (log 8) is set for that one alone (R126). HLEN = 20 with
a short dictionary is the spec's own filling (R128, 92 D13), which 93 U4 calls any value and RDREG does
not show: no rule of the source. -/
def Obligations.ParseHeaderFields : Prop :=
  ∀ (magic : Magic) (draw f length : Nat) (bytes : List Byte), 20 ≤ length →
    bytes.getD 0 0 = magic.m0 → bytes.getD 1 0 = magic.m1 → bytes.getD 2 0 = magic.m2 →
    let c := parseHeader magic draw f bytes length
    let flags := bytes.getD 3 0
    let p := if flags.getLsbD 7 then 36 else 20
    let size := if flags.getLsbD 5 then p + 2 else p
    (c.valid = true ↔ size ≤ length) ∧
    (c.valid = true → c.hlen.toNat = size ∧ c.flags.toNat = flags.toNat / 4 * 4 ∧
      c.orig.toNat = bigEndian ((bytes.drop 4).take 8) ∧
      c.stored.toNat = bigEndian ((bytes.drop 12).take 8) ∧
      (flags.getLsbD 7 = true → ∀ i : Fin 16, c.dict[i] = bytes.getD (20 + i) 0) ∧
      (flags.getLsbD 5 = true →
        c.sum.toNat = (bytes.getD p 0).toNat * 256 + (bytes.getD (p + 1) 0).toNat)) ∧
    (flags.getLsbD 7 = true → length < 36 → c.hlen.toNat = 20) ∧
    (c.shortSum = true ↔ flags.getLsbD 5 = true ∧ p ≤ length ∧ length < p + 2) ∧
    (c.shortSum = true → c.hlen.toNat = p + 2)

/-- R129 (f): bytes beyond HLEN are never read: a valid header parses the same from any bytes that agree
up to HLEN and any length of at least HLEN. -/
def Obligations.ParseHeaderReadsHeaderOnly : Prop :=
  ∀ (magic : Magic) (draw f length length' : Nat) (bytes bytes' : List Byte),
    (parseHeader magic draw f bytes length).valid = true →
    (parseHeader magic draw f bytes length).hlen.toNat ≤ length' →
    (∀ j, j < (parseHeader magic draw f bytes length).hlen.toNat → bytes[j]? = bytes'[j]?) →
    parseHeader magic draw f bytes' length' = parseHeader magic draw f bytes length

/-! ### Chain analyzer -/

/-- R222: CHAIN.SCAN m, by what `analyze_chain` answers. What it leaves in the other records is invalid
and bears no mark of R126 (log 8, the model's). -/
def Obligations.ChainScanMeaning : Prop :=
  ∀ (s : State) (m : Byte),
    (s.err = 0 → (m.toNat < 1 ∨ 3 < m.toNat) → exec (.chainScan m) s = .next (stopped s 7 [])) ∧
    (s.err = 0 → 1 ≤ m.toNat → m.toNat ≤ 3 →
      (∀ frames, analyzeChain Config.magic s.free s.inp s.blen.toNat m.toNat = .ok frames →
        ∃ cfg : Vector StreamCfg 3, exec (.chainScan m) s = .next (answered
            { s with cfg := cfg, nfr := BitVec.ofNat 2 frames.length, scanv := true, outv := false,
                     free := s.free + 1 } (BitVec.ofNat 64 frames.length) []) ∧
          ∀ f : Fin 3, (∀ c, frames[f.val]? = some c → cfg[f] = c) ∧
            (frames.length ≤ f.val → cfg[f].valid = false ∧ cfg[f].shortSum = false)) ∧
      (∀ stop, analyzeChain Config.magic s.free s.inp s.blen.toNat m.toNat = .error stop →
        ∃ cfg : Vector StreamCfg 3, exec (.chainScan m) s = .next (stopped
            { s with cfg := cfg, nfr := 0, scanv := false, outv := false, free := s.free + 1 }
            1 []) ∧ ∀ f : Fin 3, cfg[f].shortSum = false)) ∧
    refusedIn (.chainScan m) s ∧
    decodeCommand (commandWord 0x64 (m.setWidth 64)) = .ok (.chainScan m)

/-- R210 to R219, R221: a chain is accepted exactly when it is 1 to `max` records, each the header of IN at
its own OFF, valid, its data region from DOFF = align_up(OFF + HLEN) inside IN (BLEN may be its very end),
the first at offset 0 and each next at align_up(DOFF + STORED), CONT set on all but the last, and the float
flags of R219. Every accepted frame is a legal one (FrameOk: R127, R214, R216). -/
def Obligations.ChainFramesLegal : Prop :=
  ∀ (magic : Magic) (draw blen max : Nat) (inp : Memory) (frames : List StreamCfg),
    blen < 2 ^ 64 → max ≤ 3 →
    (analyzeChain magic draw inp blen max = .ok frames ↔
      1 ≤ frames.length ∧ frames.length ≤ max ∧
      ∀ j c, frames[j]? = some c →
        let off := c.off.toNat
        let header := parseHeader magic draw j (inp.readRange off (min (blen - off) 38)) (blen - off)
        c = { header with off := c.off, doff := c.doff } ∧ c.valid = true ∧
        c.doff.toNat = alignUp (off + c.hlen.toNat) ∧ c.doff.toNat + c.stored.toNat ≤ blen ∧
        (j = 0 → off = 0) ∧
        (∀ d, frames[j + 1]? = some d → d.off.toNat = alignUp (c.doff.toNat + c.stored.toNat)) ∧
        (c.cont = true ↔ j + 1 < frames.length) ∧
        (frames.length = 2 → c.flt = true ∧ c.flt3 = false) ∧
        (frames.length = 3 → c.flt = true ∧ c.flt3 = true)) ∧
    (analyzeChain magic draw inp blen max = .ok frames → ∀ c ∈ frames, FrameOk blen c)

/-! ### Orchestrator -/

/-- R251, R257, R258: DECODE does what `decode` answers at the implementation's MAX_STREAMS and
TRAILING_ESCAPE (R9: whatever legal values these are, logs 12, 13). A success writes OUT, OLEN and OUTV and
answers OLEN (log 15); a failure raises its error, leaves OUT untouched and OLEN and OUTV 0, `val` being 0
then (log 16). Either way the units' registers hold nothing afterwards, and IN and BLEN are as they were.
Which bytes the frames give is DecodeErrorOrder's. -/
def Obligations.DecodeMeaning : Prop :=
  ∀ (s : State) (key : Word16), s.err = 0 → ∃ t : State, exec (.decode key) s = .next t ∧
    t.ksv = false ∧ t.csv = false ∧ t.dv = 0 ∧ t.dpos = 0 ∧ t.esc = false ∧ t.rlev = false ∧
    t.rpos = 0 ∧ t.ocnt = 0 ∧ t.cap = 0 ∧ (∀ f : Fin 3, t.streams[f] = []) ∧
    t.inp = s.inp ∧ t.blen = s.blen ∧ t.port = s.port ∧
    let result := decode Config.magic Config.trailingEscape Config.maxStreams s.free s.inp s.blen.toNat key
    (∀ bytes, result = .ok bytes →
      t.err = 0 ∧ t.outv = true ∧ t.scanv = true ∧ t.out = Memory.writeBytes [] 0 bytes ∧
      t.resp = { err := 0, val := t.olen, data := [] } ∧
      (bytes.length < 2 ^ 64 → t.olen.toNat = bytes.length ∧ t.output = some bytes)) ∧
    (∀ stop, result = .error stop →
      ∃ e, stop = .raised e ∧ t.err = e.code ∧ t.outv = false ∧ t.olen = 0 ∧ t.out = s.out ∧
        t.resp = { err := e.code, val := 0, data := [] })

/-- R258, R222: DECODE leaves SCANV, NFR and CFG as CHAIN.SCAN at MAX_STREAMS does: the records of an
accepted chain, whether or not its frames then decode; with a bad chain SCANV and NFR 0 (P4 (d) of
95_test_vectors.md), CFG open. That the records left invalid bear no mark of R126 is the model's, log 8. -/
def Obligations.DecodeLeavesScan : Prop :=
  ∀ (s t : State) (key : Word16), s.err = 0 → exec (.decode key) s = .next t →
    let chain := analyzeChain Config.magic s.free s.inp s.blen.toNat Config.maxStreams
    (∀ frames, chain = .ok frames →
      t.scanv = true ∧ t.nfr.toNat = frames.length ∧
        ∀ f : Fin 3, (∀ c, frames[f.val]? = some c → t.cfg[f] = c) ∧
          (frames.length ≤ f.val → t.cfg[f].valid = false ∧ t.cfg[f].shortSum = false)) ∧
    (∀ stop, chain = .error stop →
      t.scanv = false ∧ t.nfr = 0 ∧ ∀ f : Fin 3, t.cfg[f].shortSum = false)

/-- R253, R254, R284: the stages of a frame whose data region is inside IN, in their order: the stored
bytes' checksum where CKS is set; decryption where ENC is set; decompression where COMP is set, with
capacity 16 * STORED; the length. The error is that of the first stage that fails. -/
def Obligations.DecodeFrameStages : Prop :=
  ∀ (te : TrailingEscape) (inp : Memory) (blen : Nat) (key : Word16) (c : StreamCfg),
    c.doff.toNat + c.stored.toNat ≤ blen →
    let raw := inp.readRange c.doff.toNat c.stored.toNat
    let plain := if c.enc then decrypt raw key else raw
    let run := decompress te plain c.dict (16 * c.stored.toNat)
    let frame := decodeFrame te inp blen key c
    (c.cks = true → checksum raw ≠ c.sum → frame = .error (.raised .integrity)) ∧
    ((c.cks = true → checksum raw = c.sum) →
      (c.comp = false → plain.length = c.orig.toNat → frame = .ok plain) ∧
      (c.comp = false → plain.length ≠ c.orig.toNat → frame = .error (.raised .sizeMismatch)) ∧
      (c.comp = true → ∀ e, run.2 = some e → frame = .error (.raised e)) ∧
      (c.comp = true → run.2 = none → run.1.length = c.orig.toNat → frame = .ok run.1) ∧
      (c.comp = true → run.2 = none → run.1.length ≠ c.orig.toNat →
        frame = .error (.raised .sizeMismatch)))

/-- R251, R256, R257, R284: how a DECODE ends, for any values of TRAILING_ESCAPE and MAX_STREAMS, exec's
being the implementation's (R9; logs 12, 13). A bad chain is FormatError before all else; then the first
frame that fails, in chain order, gives its error; if every frame `f` decodes to a stream, one stream is
OUT itself, two are rejoined as sign+fraction and exponent, three as fraction, exponent and sign, and an
error of the rejoiner comes last. OLEN of 2^64 bytes or more is open (log 10, the model's). -/
def Obligations.DecodeErrorOrder : Prop :=
  (∀ (s : State) (key : Word16),
    exec (.decode key) s = decodeWith Config.trailingEscape Config.maxStreams key s) ∧
  ∀ (te : TrailingEscape) (max : Nat) (s : State) (key : Word16), s.err = 0 →
    let chain := analyzeChain Config.magic s.free s.inp s.blen.toNat max
    let frame := decodeFrame te s.inp s.blen.toNat key
    let fails (code : BitVec 3) : Prop := ∃ t, decodeWith te max key s = .next t ∧
      t.err = code ∧ t.outv = false ∧ t.olen = 0 ∧ t.out = s.out
    let writes (bytes : List Byte) : Prop := ∃ t, decodeWith te max key s = .next t ∧
      t.err = 0 ∧ t.outv = true ∧ t.out = Memory.writeBytes [] 0 bytes ∧
      (bytes.length < 2 ^ 64 → t.olen.toNat = bytes.length ∧ t.output = some bytes)
    let ends (rejoined : Except Stop (List Byte)) : Prop :=
      (∀ stop, rejoined = .error stop → fails 5) ∧ ∀ bytes, rejoined = .ok bytes → writes bytes
    (∀ stop, chain = .error stop → fails 1) ∧
    (∀ pre c post e, chain = .ok (pre ++ c :: post) → (∀ d ∈ pre, ∃ b, frame d = .ok b) →
      frame c = .error (.raised e) → fails e.code) ∧
    (∀ c b, chain = .ok [c] → frame c = .ok b → writes b) ∧
    (∀ c₀ c₁ b₀ b₁, chain = .ok [c₀, c₁] → frame c₀ = .ok b₀ → frame c₁ = .ok b₁ →
      ends (rejoin2 b₀ b₁)) ∧
    (∀ c₀ c₁ c₂ b₀ b₁ b₂, chain = .ok [c₀, c₁, c₂] → frame c₀ = .ok b₀ → frame c₁ = .ok b₁ →
      frame c₂ = .ok b₂ → ends (rejoin3 b₀ b₁ b₂))

/-- R255: `decode` never raises CapacityError; and no read leaves IN (R14). -/
def Obligations.DecodeErrorsPossible : Prop :=
  ∀ (magic : Magic) (te : TrailingEscape) (draw blen max : Nat) (inp : Memory) (key : Word16)
    (stop : Stop), blen < 2 ^ 64 → max ≤ 3 →
    decode magic te max draw inp blen key = .error stop →
    stop = .raised .format ∨ stop = .raised .integrity ∨ stop = .raised .truncatedEscape ∨
      stop = .raised .sizeMismatch ∨ stop = .raised .rejoinLength

/-- R313, R258: two states with ERR = 0 that agree on IN and BLEN decode alike, whatever commands came
before: the same ERR, OUTV, SCANV and NFR; the same OUT where there is one, and OLEN where it fits 64 bits;
the same records of an accepted chain, DICT and SUM where the header has them (where it has not, log 7). -/
def Obligations.DecodeForgetsHistory : Prop :=
  ∀ (s₁ s₂ t₁ t₂ : State) (key : Word16), s₁.err = 0 → s₂.err = 0 → s₁.inp = s₂.inp →
    s₁.blen = s₂.blen → exec (.decode key) s₁ = .next t₁ → exec (.decode key) s₂ = .next t₂ →
    t₁.err = t₂.err ∧ t₁.outv = t₂.outv ∧ t₁.scanv = t₂.scanv ∧ t₁.nfr = t₂.nfr ∧
    (t₁.outv = true → t₁.out = t₂.out) ∧
    (t₁.outv = false → t₁.olen = t₂.olen) ∧
    (∀ bytes, decode Config.magic Config.trailingEscape Config.maxStreams s₁.free s₁.inp s₁.blen.toNat
        key = .ok bytes → bytes.length < 2 ^ 64 → t₁.olen = t₂.olen ∧ t₁.output = t₂.output) ∧
    (t₁.scanv = true → ∀ f : Fin 3, t₁.cfg[f].valid = t₂.cfg[f].valid ∧
      (t₁.cfg[f].valid = true →
        t₁.cfg[f].hlen = t₂.cfg[f].hlen ∧ t₁.cfg[f].flags = t₂.cfg[f].flags ∧
        t₁.cfg[f].orig = t₂.cfg[f].orig ∧ t₁.cfg[f].stored = t₂.cfg[f].stored ∧
        t₁.cfg[f].off = t₂.cfg[f].off ∧ t₁.cfg[f].doff = t₂.cfg[f].doff ∧
        (t₁.cfg[f].cks = true → t₁.cfg[f].sum = t₂.cfg[f].sum) ∧
        (t₁.cfg[f].comp = true → t₁.cfg[f].dict = t₂.cfg[f].dict)))

/-- R74, 93 U13: padding is never read. If the chain of one input is good, any other input with the same
bytes in its headers and data regions decodes to the same result. -/
def Obligations.PaddingNeverRead : Prop :=
  ∀ (magic : Magic) (te : TrailingEscape) (draw blen max : Nat) (inp inp' : Memory) (key : Word16)
    (frames : List StreamCfg), blen < 2 ^ 64 → max ≤ 3 →
    analyzeChain magic draw inp blen max = .ok frames →
    (∀ c ∈ frames, ∀ a : Nat,
      (c.off.toNat ≤ a ∧ a < c.off.toNat + c.hlen.toNat) ∨
        (c.doff.toNat ≤ a ∧ a < c.doff.toNat + c.stored.toNat) →
      inp'.read a = inp.read a) →
    decode magic te max draw inp' blen key = decode magic te max draw inp blen key

/-! ### The whole machine -/

/-- The invariant (Safety.lean: R26, R27, R28, R32, R34, R37, R100, R127, R214, R216) holds at reset. -/
def Obligations.InvariantAtReset : Prop := Invariant State.reset

/-- Every step from every state that has the invariant keeps it. -/
def Obligations.StepKeepsInvariant : Prop :=
  ∀ s t : State, Invariant s → step s = .next t → Invariant t

/-- R332, R14: every command completes; the machine never stops, in any state. -/
def Obligations.StepAlwaysCompletes : Prop := ∀ s : State, Completes (step s)

/-- R31, R60: no command writes IN or BLEN. -/
def Obligations.InputNeverWritten : Prop :=
  ∀ s t : State, step s = .next t → t.inp = s.inp ∧ t.blen = s.blen
end

