-- ==== Sys2Proof/Laws/Decode.lean ====
section
/-! SUPPORT. Small facts about the fields of a command word, for proofs about decoding. -/

namespace Sys2Proof

/-- The bits of a command word: `arg` below, `op` above. -/
theorem commandWord_getLsbD (op : BitVec 8) (arg : Word64) (i : Nat) :
    (commandWord op arg).getLsbD i = if i < 64 then arg.getLsbD i else op.getLsbD (i - 64) :=
  BitVec.getLsbD_append

@[simp] theorem opField_commandWord (op : BitVec 8) (arg : Word64) :
    opField (commandWord op arg) = op := by
  apply BitVec.eq_of_getLsbD_eq
  intro i hi
  simp [opField, commandWord_getLsbD, hi]

@[simp] theorem argField_commandWord (op : BitVec 8) (arg : Word64) :
    argField (commandWord op arg) = arg := by
  apply BitVec.eq_of_getLsbD_eq
  intro i hi
  simp [argField, commandWord_getLsbD, hi]

/-- A command word is its two fields. -/
theorem commandWord_fields (w : CmdWord) : commandWord (opField w) (argField w) = w := by
  apply BitVec.eq_of_getLsbD_eq
  intro i hi
  by_cases h : i < 64
  · simp [commandWord_getLsbD, argField, h]
  · simp [commandWord_getLsbD, opField, h, show i - 64 < 8 by omega,
      show 64 + (i - 64) = i by omega]

/-- A command word decodes by its two fields. -/
@[simp] theorem decodeCommand_commandWord (op : BitVec 8) (arg : Word64) :
    decodeCommand (commandWord op arg) = decodeFields op arg := by
  simp only [decodeCommand, opField_commandWord, argField_commandWord]

/-- The reserved bits are clear exactly when the operand field is below `2^n`. -/
theorem reservedClear_iff (arg : Word64) (n : Nat) :
    reservedClear arg n = true ↔ arg.toNat / 2 ^ n = 0 := by
  simp only [reservedClear, beq_iff_eq, ← BitVec.toNat_inj, BitVec.toNat_ushiftRight,
    Nat.shiftRight_eq_div_pow]
  rfl

theorem withReserved_clear {arg : Word64} {n : Nat} (i : Instr) (h : arg.toNat / 2 ^ n = 0) :
    withReserved arg n i = .ok i := if_pos ((reservedClear_iff arg n).mpr h)

theorem withReserved_set {arg : Word64} {n : Nat} (i : Instr) (h : arg.toNat / 2 ^ n ≠ 0) :
    withReserved arg n i = .error .reservedBits :=
  if_neg fun hc => h ((reservedClear_iff arg n).mp hc)

/-- A format answers an instruction only with its reserved bits clear. -/
theorem withReserved_ok {arg : Word64} {n : Nat} {i j : Instr} (h : withReserved arg n i = .ok j) :
    arg.toNat / 2 ^ n = 0 ∧ j = i := by
  unfold withReserved at h
  split at h
  · next hc => exact ⟨(reservedClear_iff arg n).mp hc, by simpa using h.symm⟩
  · simp at h

/-- A field narrower than the operand field, put into it, leaves the bits above it clear. -/
theorem setWidth_div {n : Nat} (x : BitVec n) (h : n ≤ 64) : (x.setWidth 64).toNat / 2 ^ n = 0 := by
  rw [BitVec.toNat_setWidth, Nat.mod_eq_of_lt (Nat.lt_of_lt_of_le x.isLt (Nat.pow_le_pow_right
    (by omega) h))]
  exact Nat.div_eq_of_lt x.isLt

/-- A field put into the operand field is read back from its low bits. -/
theorem extract_setWidth {n : Nat} (x : BitVec n) (h : n ≤ 64) :
    (x.setWidth 64).extractLsb' 0 n = x := by
  apply BitVec.eq_of_getLsbD_eq
  intro i hi
  simp [hi, show i < 64 by omega]

/-- An operand field with clear reserved bits is its low field. -/
theorem setWidth_extract {arg : Word64} {n : Nat} (h : arg.toNat / 2 ^ n = 0) :
    (arg.extractLsb' 0 n).setWidth 64 = arg := by
  have hlt : arg.toNat < 2 ^ n := by
    rcases Nat.div_eq_zero_iff.mp h with h0 | h1
    · exact absurd h0 (Nat.pow_pos (by omega)).ne'
    · exact h1
  apply BitVec.eq_of_toNat_eq
  rw [BitVec.toNat_setWidth, BitVec.extractLsb'_toNat]
  simp only [Nat.shiftRight_zero]
  rw [Nat.mod_eq_of_lt hlt, Nat.mod_eq_of_lt arg.isLt]

end Sys2Proof
end

