-- ==== Sys2Proof/Laws/Memory.lean ====
section
/-! SUPPORT. What the buffer operations do, read through one byte, and that each keeps the canonical
form. -/

namespace Sys2Proof.Machine

open Sys2Proof (Byte Word16 Word64)

/-! ### Reading after writing -/

theorem read_of_wfFrom_lt {m : Memory} {lo a : Nat} (h : Memory.wfFrom lo m = true) (ha : a < lo) :
    m.read a = Memory.unlisted := by
  induction m generalizing lo with
  | nil => rfl
  | cons c rest ih =>
    obtain ⟨k, v⟩ := c
    simp only [Memory.wfFrom, Bool.and_eq_true, decide_eq_true_eq] at h
    have : k ≠ a := by omega
    simp only [Memory.read, this, if_false]
    exact ih h.2 (by omega)

theorem wfFrom_mono {m : Memory} {lo lo' : Nat} (h : Memory.wfFrom lo m = true) (hl : lo' ≤ lo) :
    Memory.wfFrom lo' m = true := by
  cases m with
  | nil => rfl
  | cons c rest =>
    obtain ⟨k, v⟩ := c
    simp only [Memory.wfFrom, Bool.and_eq_true, decide_eq_true_eq] at h ⊢
    exact ⟨⟨by omega, h.1.2⟩, h.2⟩

theorem write_wfFrom {m : Memory} {lo a : Nat} {b : Byte} (h : Memory.wfFrom lo m = true)
    (ha : lo ≤ a) : Memory.wfFrom lo (m.write a b) = true := by
  induction m generalizing lo with
  | nil => by_cases hb : b = Memory.unlisted <;> simp [Memory.write, hb, Memory.wfFrom, ha]
  | cons c rest ih =>
    obtain ⟨k, v⟩ := c
    simp only [Memory.wfFrom, Bool.and_eq_true, decide_eq_true_eq] at h
    obtain ⟨⟨hk, hv⟩, hrest⟩ := h
    rcases Nat.lt_trichotomy k a with hlt | rfl | hgt
    · simp only [Memory.write, hlt, if_true, Memory.wfFrom, Bool.and_eq_true, decide_eq_true_eq]
      exact ⟨⟨hk, hv⟩, ih hrest hlt⟩
    · by_cases hb : b = Memory.unlisted
      · simpa [Memory.write, hb] using wfFrom_mono hrest (by omega)
      · simp [Memory.write, hb, Memory.wfFrom, hrest, hk]
    · have h1 : ¬ k < a := by omega
      have h2 : k ≠ a := by omega
      by_cases hb : b = Memory.unlisted
      · simp [Memory.write, h1, h2, hb, Memory.wfFrom, hk, hrest, bne_iff_ne.mp hv]
      · have : a + 1 ≤ k := hgt
        simp [Memory.write, h1, h2, hb, Memory.wfFrom, ha, hrest, bne_iff_ne.mp hv, this]

/-- The canonical form survives a write. -/
theorem write_wf {m : Memory} (a : Nat) (b : Byte) (h : m.wf = true) : (m.write a b).wf = true :=
  write_wfFrom h (Nat.zero_le a)

/-- The canonical form survives MemWrite. -/
theorem writeBytes_wf {m : Memory} (a : Nat) (bytes : List Byte) (h : m.wf = true) :
    (m.writeBytes a bytes).wf = true := by
  induction bytes generalizing m a with
  | nil => exact h
  | cons b rest ih => exact ih (a + 1) (write_wf a b h)

theorem read_write_same {m : Memory} (a : Nat) (b : Byte) (h : m.wf = true) :
    (m.write a b).read a = b := by
  unfold Memory.wf at h
  generalize 0 = lo at h
  induction m generalizing lo with
  | nil => by_cases hb : b = Memory.unlisted <;> simp [Memory.write, hb, Memory.read]
  | cons c rest ih =>
    obtain ⟨k, v⟩ := c
    simp only [Memory.wfFrom, Bool.and_eq_true, decide_eq_true_eq] at h
    rcases Nat.lt_trichotomy k a with hlt | rfl | hgt
    · have : k ≠ a := by omega
      simp only [Memory.write, hlt, if_true, Memory.read, this, if_false]
      exact ih (k + 1) h.2
    · by_cases hb : b = Memory.unlisted
      · simp [Memory.write, hb, read_of_wfFrom_lt h.2 (Nat.lt_succ_self k)]
      · simp [Memory.write, hb, Memory.read]
    · have h1 : ¬ k < a := by omega
      have h2 : k ≠ a := by omega
      by_cases hb : b = Memory.unlisted
      · simp [Memory.write, h1, h2, hb, Memory.read,
          read_of_wfFrom_lt h.2 (show a < k + 1 by omega)]
      · simp [Memory.write, h1, h2, hb, Memory.read]

theorem read_write_ne {m : Memory} {a a' : Nat} (b : Byte) (h : a ≠ a') :
    (m.write a b).read a' = m.read a' := by
  induction m with
  | nil => by_cases hb : b = Memory.unlisted <;> simp [Memory.write, hb, Memory.read, h]
  | cons c rest ih =>
    obtain ⟨k, v⟩ := c
    rcases Nat.lt_trichotomy k a with hlt | rfl | hgt
    · simp only [Memory.write, hlt, if_true, Memory.read, ih]
    · by_cases hb : b = Memory.unlisted <;> simp [Memory.write, hb, Memory.read, h]
    · have h1 : ¬ k < a := by omega
      have h2 : k ≠ a := by omega
      by_cases hb : b = Memory.unlisted <;> simp [Memory.write, h1, h2, hb, Memory.read, h]

/-- MemWrite leaves every address outside the bytes it stores alone. -/
theorem read_writeBytes_outside {m : Memory} {a a' : Nat} (bytes : List Byte)
    (h : a' < a ∨ a + bytes.length ≤ a') : (m.writeBytes a bytes).read a' = m.read a' := by
  induction bytes generalizing m a with
  | nil => rfl
  | cons b rest ih =>
    simp only [List.length_cons] at h
    rw [Memory.writeBytes, ih (by omega), read_write_ne b (by omega)]

/-- MemWrite stores byte `j` at `a + j`. -/
theorem read_writeBytes_inside {m : Memory} (a : Nat) (bytes : List Byte) (h : m.wf = true)
    {j : Nat} {b : Byte} (hj : bytes[j]? = some b) : (m.writeBytes a bytes).read (a + j) = b := by
  induction bytes generalizing m a j with
  | nil => simp at hj
  | cons c rest ih =>
    cases j with
    | zero =>
      simp only [List.getElem?_cons_zero, Option.some.injEq] at hj
      rw [Memory.writeBytes, read_writeBytes_outside rest (by omega), Nat.add_zero,
        read_write_same a c h, hj]
    | succ j =>
      simp only [List.getElem?_cons_succ] at hj
      rw [Memory.writeBytes, show a + (j + 1) = a + 1 + j by omega]
      exact ih (a + 1) (write_wf a c h) hj

/-! ### Ranges -/

@[simp] theorem readRange_length (m : Memory) (a n : Nat) : (m.readRange a n).length = n := by
  induction n generalizing a with
  | zero => rfl
  | succ n ih => simp [Memory.readRange, ih]

theorem readRange_getElem? (m : Memory) (a n j : Nat) :
    (m.readRange a n)[j]? = if j < n then some (m.read (a + j)) else none := by
  induction n generalizing a j with
  | zero => simp [Memory.readRange]
  | succ n ih =>
    cases j with
    | zero => simp [Memory.readRange]
    | succ j =>
      simp only [Memory.readRange, List.getElem?_cons_succ, ih, Nat.add_lt_add_iff_right]
      rw [show a + 1 + j = a + (j + 1) by omega]

/-- A range read twice is the same where every byte of it is. -/
theorem readRange_congr {m m' : Memory} {a n : Nat}
    (h : ∀ x, a ≤ x → x < a + n → m'.read x = m.read x) : m'.readRange a n = m.readRange a n := by
  induction n generalizing a with
  | zero => rfl
  | succ n ih =>
    simp only [Memory.readRange]
    rw [h a (by omega) (by omega), ih fun x h1 h2 => h x (by omega) (by omega)]

/-- What MemWrite stored is what the range then reads as. -/
theorem readRange_writeBytes {m : Memory} (a : Nat) (bytes : List Byte) (h : m.wf = true) :
    (m.writeBytes a bytes).readRange a bytes.length = bytes := by
  apply List.ext_getElem?
  intro j
  rw [readRange_getElem?]
  split
  · next hj =>
    rw [List.getElem?_eq_getElem hj, read_writeBytes_inside a bytes h (List.getElem?_eq_getElem hj)]
  · next hj => rw [List.getElem?_eq_none (by omega)]

/-! ### One form only -/

/-- Canonical memories that read alike are equal as data. -/
theorem memory_ext {m m' : Memory} (h : m.wf = true) (h' : m'.wf = true)
    (hr : ∀ a, m.read a = m'.read a) : m = m' := by
  unfold Memory.wf at h h'
  generalize 0 = lo at h h'
  induction m generalizing m' lo with
  | nil =>
    cases m' with
    | nil => rfl
    | cons c rest =>
      obtain ⟨k, v⟩ := c
      simp only [Memory.wfFrom, Bool.and_eq_true, decide_eq_true_eq] at h'
      have := hr k
      simp only [Memory.read, if_true] at this
      exact absurd this.symm (bne_iff_ne.mp h'.1.2)
  | cons c rest ih =>
    obtain ⟨k, v⟩ := c
    have hm := h
    simp only [Memory.wfFrom, Bool.and_eq_true, decide_eq_true_eq] at h
    cases m' with
    | nil =>
      have := hr k
      simp only [Memory.read, if_true] at this
      exact absurd this (bne_iff_ne.mp h.1.2)
    | cons c' rest' =>
      obtain ⟨k', v'⟩ := c'
      have hm' := h'
      simp only [Memory.wfFrom, Bool.and_eq_true, decide_eq_true_eq] at h'
      rcases Nat.lt_trichotomy k k' with hlt | rfl | hgt
      · have := hr k
        have h1 : k' ≠ k := by omega
        simp only [Memory.read, if_true, h1, if_false,
          read_of_wfFrom_lt h'.2 (show k < k' + 1 by omega)] at this
        exact absurd this (bne_iff_ne.mp h.1.2)
      · have hv : v = v' := by simpa [Memory.read] using hr k
        subst hv
        congr 1
        refine ih (lo := k + 1) ?_ h.2 h'.2
        intro a
        by_cases ha : k = a
        · subst ha
          rw [read_of_wfFrom_lt h.2 (Nat.lt_succ_self k), read_of_wfFrom_lt h'.2 (Nat.lt_succ_self k)]
        · simpa [Memory.read, ha] using hr a
      · have := hr k'
        have h1 : k ≠ k' := by omega
        simp only [Memory.read, if_true, h1, if_false,
          read_of_wfFrom_lt h.2 (show k' < k + 1 by omega)] at this
        exact absurd this.symm (bne_iff_ne.mp h'.1.2)

end Sys2Proof.Machine
end

