-- ==== Sys2Proof/Laws/State.lean ====
section
/-! SUPPORT. One lemma for each field of State after each named update, all true by definition. -/

namespace Sys2Proof.Machine

open Sys2Proof (Byte Word16 Word64)

/-! ### The operations of Ops.lean -/

@[simp] theorem respond_port (v : Word64) (d : List Byte) (s : State) :
    (respond v d s).port = s.port := rfl
@[simp] theorem respond_ks (v : Word64) (d : List Byte) (s : State) :
    (respond v d s).ks = s.ks := rfl
@[simp] theorem respond_ksv (v : Word64) (d : List Byte) (s : State) :
    (respond v d s).ksv = s.ksv := rfl
@[simp] theorem respond_dpos (v : Word64) (d : List Byte) (s : State) :
    (respond v d s).dpos = s.dpos := rfl
@[simp] theorem respond_cs (v : Word64) (d : List Byte) (s : State) :
    (respond v d s).cs = s.cs := rfl
@[simp] theorem respond_csv (v : Word64) (d : List Byte) (s : State) :
    (respond v d s).csv = s.csv := rfl
@[simp] theorem respond_dict (v : Word64) (d : List Byte) (s : State) :
    (respond v d s).dict = s.dict := rfl
@[simp] theorem respond_dv (v : Word64) (d : List Byte) (s : State) :
    (respond v d s).dv = s.dv := rfl
@[simp] theorem respond_esc (v : Word64) (d : List Byte) (s : State) :
    (respond v d s).esc = s.esc := rfl
@[simp] theorem respond_rlev (v : Word64) (d : List Byte) (s : State) :
    (respond v d s).rlev = s.rlev := rfl
@[simp] theorem respond_rpos (v : Word64) (d : List Byte) (s : State) :
    (respond v d s).rpos = s.rpos := rfl
@[simp] theorem respond_ocnt (v : Word64) (d : List Byte) (s : State) :
    (respond v d s).ocnt = s.ocnt := rfl
@[simp] theorem respond_cap (v : Word64) (d : List Byte) (s : State) :
    (respond v d s).cap = s.cap := rfl
@[simp] theorem respond_err (v : Word64) (d : List Byte) (s : State) :
    (respond v d s).err = s.err := rfl
@[simp] theorem respond_scanv (v : Word64) (d : List Byte) (s : State) :
    (respond v d s).scanv = s.scanv := rfl
@[simp] theorem respond_outv (v : Word64) (d : List Byte) (s : State) :
    (respond v d s).outv = s.outv := rfl
@[simp] theorem respond_nfr (v : Word64) (d : List Byte) (s : State) :
    (respond v d s).nfr = s.nfr := rfl
@[simp] theorem respond_cfg (v : Word64) (d : List Byte) (s : State) :
    (respond v d s).cfg = s.cfg := rfl
@[simp] theorem respond_inp (v : Word64) (d : List Byte) (s : State) :
    (respond v d s).inp = s.inp := rfl
@[simp] theorem respond_blen (v : Word64) (d : List Byte) (s : State) :
    (respond v d s).blen = s.blen := rfl
@[simp] theorem respond_streams (v : Word64) (d : List Byte) (s : State) :
    (respond v d s).streams = s.streams := rfl
@[simp] theorem respond_out (v : Word64) (d : List Byte) (s : State) :
    (respond v d s).out = s.out := rfl
@[simp] theorem respond_olen (v : Word64) (d : List Byte) (s : State) :
    (respond v d s).olen = s.olen := rfl
@[simp] theorem respond_resp (v : Word64) (d : List Byte) (s : State) :
    (respond v d s).resp = { err := s.err, val := v, data := d } := rfl
@[simp] theorem respond_free (v : Word64) (d : List Byte) (s : State) :
    (respond v d s).free = s.free := rfl

@[simp] theorem latch_port (e : Error) (s : State) : (s.latch e).port = s.port := rfl
@[simp] theorem latch_ks (e : Error) (s : State) : (s.latch e).ks = s.ks := rfl
@[simp] theorem latch_ksv (e : Error) (s : State) : (s.latch e).ksv = s.ksv := rfl
@[simp] theorem latch_dpos (e : Error) (s : State) : (s.latch e).dpos = s.dpos := rfl
@[simp] theorem latch_cs (e : Error) (s : State) : (s.latch e).cs = s.cs := rfl
@[simp] theorem latch_csv (e : Error) (s : State) : (s.latch e).csv = s.csv := rfl
@[simp] theorem latch_dict (e : Error) (s : State) : (s.latch e).dict = s.dict := rfl
@[simp] theorem latch_dv (e : Error) (s : State) : (s.latch e).dv = s.dv := rfl
@[simp] theorem latch_esc (e : Error) (s : State) : (s.latch e).esc = s.esc := rfl
@[simp] theorem latch_rlev (e : Error) (s : State) : (s.latch e).rlev = s.rlev := rfl
@[simp] theorem latch_rpos (e : Error) (s : State) : (s.latch e).rpos = s.rpos := rfl
@[simp] theorem latch_ocnt (e : Error) (s : State) : (s.latch e).ocnt = s.ocnt := rfl
@[simp] theorem latch_cap (e : Error) (s : State) : (s.latch e).cap = s.cap := rfl
@[simp] theorem latch_err (e : Error) (s : State) :
    (s.latch e).err = if s.err = 0 then e.code else s.err := rfl
@[simp] theorem latch_scanv (e : Error) (s : State) : (s.latch e).scanv = s.scanv := rfl
@[simp] theorem latch_outv (e : Error) (s : State) : (s.latch e).outv = s.outv := rfl
@[simp] theorem latch_nfr (e : Error) (s : State) : (s.latch e).nfr = s.nfr := rfl
@[simp] theorem latch_cfg (e : Error) (s : State) : (s.latch e).cfg = s.cfg := rfl
@[simp] theorem latch_inp (e : Error) (s : State) : (s.latch e).inp = s.inp := rfl
@[simp] theorem latch_blen (e : Error) (s : State) : (s.latch e).blen = s.blen := rfl
@[simp] theorem latch_streams (e : Error) (s : State) : (s.latch e).streams = s.streams := rfl
@[simp] theorem latch_out (e : Error) (s : State) : (s.latch e).out = s.out := rfl
@[simp] theorem latch_olen (e : Error) (s : State) : (s.latch e).olen = s.olen := rfl
@[simp] theorem latch_resp (e : Error) (s : State) : (s.latch e).resp = s.resp := rfl
@[simp] theorem latch_free (e : Error) (s : State) : (s.latch e).free = s.free := rfl

@[simp] theorem takeError_port (e : Error) (d : List Byte) (s : State) :
    (takeError e d s).port = s.port := rfl
@[simp] theorem takeError_ks (e : Error) (d : List Byte) (s : State) :
    (takeError e d s).ks = s.ks := rfl
@[simp] theorem takeError_ksv (e : Error) (d : List Byte) (s : State) :
    (takeError e d s).ksv = s.ksv := rfl
@[simp] theorem takeError_dpos (e : Error) (d : List Byte) (s : State) :
    (takeError e d s).dpos = s.dpos := rfl
@[simp] theorem takeError_cs (e : Error) (d : List Byte) (s : State) :
    (takeError e d s).cs = s.cs := rfl
@[simp] theorem takeError_csv (e : Error) (d : List Byte) (s : State) :
    (takeError e d s).csv = s.csv := rfl
@[simp] theorem takeError_dict (e : Error) (d : List Byte) (s : State) :
    (takeError e d s).dict = s.dict := rfl
@[simp] theorem takeError_dv (e : Error) (d : List Byte) (s : State) :
    (takeError e d s).dv = s.dv := rfl
@[simp] theorem takeError_esc (e : Error) (d : List Byte) (s : State) :
    (takeError e d s).esc = s.esc := rfl
@[simp] theorem takeError_rlev (e : Error) (d : List Byte) (s : State) :
    (takeError e d s).rlev = s.rlev := rfl
@[simp] theorem takeError_rpos (e : Error) (d : List Byte) (s : State) :
    (takeError e d s).rpos = s.rpos := rfl
@[simp] theorem takeError_ocnt (e : Error) (d : List Byte) (s : State) :
    (takeError e d s).ocnt = s.ocnt := rfl
@[simp] theorem takeError_cap (e : Error) (d : List Byte) (s : State) :
    (takeError e d s).cap = s.cap := rfl
@[simp] theorem takeError_err (e : Error) (d : List Byte) (s : State) :
    (takeError e d s).err = if s.err = 0 then e.code else s.err := rfl
@[simp] theorem takeError_scanv (e : Error) (d : List Byte) (s : State) :
    (takeError e d s).scanv = s.scanv := rfl
@[simp] theorem takeError_outv (e : Error) (d : List Byte) (s : State) :
    (takeError e d s).outv = s.outv := rfl
@[simp] theorem takeError_nfr (e : Error) (d : List Byte) (s : State) :
    (takeError e d s).nfr = s.nfr := rfl
@[simp] theorem takeError_cfg (e : Error) (d : List Byte) (s : State) :
    (takeError e d s).cfg = s.cfg := rfl
@[simp] theorem takeError_inp (e : Error) (d : List Byte) (s : State) :
    (takeError e d s).inp = s.inp := rfl
@[simp] theorem takeError_blen (e : Error) (d : List Byte) (s : State) :
    (takeError e d s).blen = s.blen := rfl
@[simp] theorem takeError_streams (e : Error) (d : List Byte) (s : State) :
    (takeError e d s).streams = s.streams := rfl
@[simp] theorem takeError_out (e : Error) (d : List Byte) (s : State) :
    (takeError e d s).out = s.out := rfl
@[simp] theorem takeError_olen (e : Error) (d : List Byte) (s : State) :
    (takeError e d s).olen = s.olen := rfl
@[simp] theorem takeError_resp (e : Error) (d : List Byte) (s : State) :
    (takeError e d s).resp = { err := if s.err = 0 then e.code else s.err, val := 0, data := d } := rfl
@[simp] theorem takeError_free (e : Error) (d : List Byte) (s : State) :
    (takeError e d s).free = s.free := rfl

@[simp] theorem refuse_port (s : State) : (refuse s).port = s.port := rfl
@[simp] theorem refuse_ks (s : State) : (refuse s).ks = s.ks := rfl
@[simp] theorem refuse_ksv (s : State) : (refuse s).ksv = s.ksv := rfl
@[simp] theorem refuse_dpos (s : State) : (refuse s).dpos = s.dpos := rfl
@[simp] theorem refuse_cs (s : State) : (refuse s).cs = s.cs := rfl
@[simp] theorem refuse_csv (s : State) : (refuse s).csv = s.csv := rfl
@[simp] theorem refuse_dict (s : State) : (refuse s).dict = s.dict := rfl
@[simp] theorem refuse_dv (s : State) : (refuse s).dv = s.dv := rfl
@[simp] theorem refuse_esc (s : State) : (refuse s).esc = s.esc := rfl
@[simp] theorem refuse_rlev (s : State) : (refuse s).rlev = s.rlev := rfl
@[simp] theorem refuse_rpos (s : State) : (refuse s).rpos = s.rpos := rfl
@[simp] theorem refuse_ocnt (s : State) : (refuse s).ocnt = s.ocnt := rfl
@[simp] theorem refuse_cap (s : State) : (refuse s).cap = s.cap := rfl
@[simp] theorem refuse_err (s : State) : (refuse s).err = s.err := rfl
@[simp] theorem refuse_scanv (s : State) : (refuse s).scanv = s.scanv := rfl
@[simp] theorem refuse_outv (s : State) : (refuse s).outv = s.outv := rfl
@[simp] theorem refuse_nfr (s : State) : (refuse s).nfr = s.nfr := rfl
@[simp] theorem refuse_cfg (s : State) : (refuse s).cfg = s.cfg := rfl
@[simp] theorem refuse_inp (s : State) : (refuse s).inp = s.inp := rfl
@[simp] theorem refuse_blen (s : State) : (refuse s).blen = s.blen := rfl
@[simp] theorem refuse_streams (s : State) : (refuse s).streams = s.streams := rfl
@[simp] theorem refuse_out (s : State) : (refuse s).out = s.out := rfl
@[simp] theorem refuse_olen (s : State) : (refuse s).olen = s.olen := rfl
@[simp] theorem refuse_resp (s : State) :
    (refuse s).resp = { err := s.err, val := 0, data := [] } := rfl
@[simp] theorem refuse_free (s : State) : (refuse s).free = s.free := rfl

@[simp] theorem drawn_port (s : State) : (s.drawn).port = s.port := rfl
@[simp] theorem drawn_ks (s : State) : (s.drawn).ks = s.ks := rfl
@[simp] theorem drawn_ksv (s : State) : (s.drawn).ksv = s.ksv := rfl
@[simp] theorem drawn_dpos (s : State) : (s.drawn).dpos = s.dpos := rfl
@[simp] theorem drawn_cs (s : State) : (s.drawn).cs = s.cs := rfl
@[simp] theorem drawn_csv (s : State) : (s.drawn).csv = s.csv := rfl
@[simp] theorem drawn_dict (s : State) : (s.drawn).dict = s.dict := rfl
@[simp] theorem drawn_dv (s : State) : (s.drawn).dv = s.dv := rfl
@[simp] theorem drawn_esc (s : State) : (s.drawn).esc = s.esc := rfl
@[simp] theorem drawn_rlev (s : State) : (s.drawn).rlev = s.rlev := rfl
@[simp] theorem drawn_rpos (s : State) : (s.drawn).rpos = s.rpos := rfl
@[simp] theorem drawn_ocnt (s : State) : (s.drawn).ocnt = s.ocnt := rfl
@[simp] theorem drawn_cap (s : State) : (s.drawn).cap = s.cap := rfl
@[simp] theorem drawn_err (s : State) : (s.drawn).err = s.err := rfl
@[simp] theorem drawn_scanv (s : State) : (s.drawn).scanv = s.scanv := rfl
@[simp] theorem drawn_outv (s : State) : (s.drawn).outv = s.outv := rfl
@[simp] theorem drawn_nfr (s : State) : (s.drawn).nfr = s.nfr := rfl
@[simp] theorem drawn_cfg (s : State) : (s.drawn).cfg = s.cfg := rfl
@[simp] theorem drawn_inp (s : State) : (s.drawn).inp = s.inp := rfl
@[simp] theorem drawn_blen (s : State) : (s.drawn).blen = s.blen := rfl
@[simp] theorem drawn_streams (s : State) : (s.drawn).streams = s.streams := rfl
@[simp] theorem drawn_out (s : State) : (s.drawn).out = s.out := rfl
@[simp] theorem drawn_olen (s : State) : (s.drawn).olen = s.olen := rfl
@[simp] theorem drawn_resp (s : State) : (s.drawn).resp = s.resp := rfl
@[simp] theorem drawn_free (s : State) : (s.drawn).free = s.free + 1 := rfl

@[simp] theorem countDpos_port (s : State) : (s.countDpos).port = s.port := rfl
@[simp] theorem countDpos_ks (s : State) : (s.countDpos).ks = s.ks := rfl
@[simp] theorem countDpos_ksv (s : State) : (s.countDpos).ksv = s.ksv := rfl
@[simp] theorem countDpos_dpos (s : State) :
    (s.countDpos).dpos = fit64 (s.dpos.toNat + 1) s.free 0 := rfl
@[simp] theorem countDpos_cs (s : State) : (s.countDpos).cs = s.cs := rfl
@[simp] theorem countDpos_csv (s : State) : (s.countDpos).csv = s.csv := rfl
@[simp] theorem countDpos_dict (s : State) : (s.countDpos).dict = s.dict := rfl
@[simp] theorem countDpos_dv (s : State) : (s.countDpos).dv = s.dv := rfl
@[simp] theorem countDpos_esc (s : State) : (s.countDpos).esc = s.esc := rfl
@[simp] theorem countDpos_rlev (s : State) : (s.countDpos).rlev = s.rlev := rfl
@[simp] theorem countDpos_rpos (s : State) : (s.countDpos).rpos = s.rpos := rfl
@[simp] theorem countDpos_ocnt (s : State) : (s.countDpos).ocnt = s.ocnt := rfl
@[simp] theorem countDpos_cap (s : State) : (s.countDpos).cap = s.cap := rfl
@[simp] theorem countDpos_err (s : State) : (s.countDpos).err = s.err := rfl
@[simp] theorem countDpos_scanv (s : State) : (s.countDpos).scanv = s.scanv := rfl
@[simp] theorem countDpos_outv (s : State) : (s.countDpos).outv = s.outv := rfl
@[simp] theorem countDpos_nfr (s : State) : (s.countDpos).nfr = s.nfr := rfl
@[simp] theorem countDpos_cfg (s : State) : (s.countDpos).cfg = s.cfg := rfl
@[simp] theorem countDpos_inp (s : State) : (s.countDpos).inp = s.inp := rfl
@[simp] theorem countDpos_blen (s : State) : (s.countDpos).blen = s.blen := rfl
@[simp] theorem countDpos_streams (s : State) : (s.countDpos).streams = s.streams := rfl
@[simp] theorem countDpos_out (s : State) : (s.countDpos).out = s.out := rfl
@[simp] theorem countDpos_olen (s : State) : (s.countDpos).olen = s.olen := rfl
@[simp] theorem countDpos_resp (s : State) : (s.countDpos).resp = s.resp := rfl
@[simp] theorem countDpos_free (s : State) :
    (s.countDpos).free = s.free + fitDraws (s.dpos.toNat + 1) := rfl

@[simp] theorem countRpos_port (s : State) : (s.countRpos).port = s.port := rfl
@[simp] theorem countRpos_ks (s : State) : (s.countRpos).ks = s.ks := rfl
@[simp] theorem countRpos_ksv (s : State) : (s.countRpos).ksv = s.ksv := rfl
@[simp] theorem countRpos_dpos (s : State) : (s.countRpos).dpos = s.dpos := rfl
@[simp] theorem countRpos_cs (s : State) : (s.countRpos).cs = s.cs := rfl
@[simp] theorem countRpos_csv (s : State) : (s.countRpos).csv = s.csv := rfl
@[simp] theorem countRpos_dict (s : State) : (s.countRpos).dict = s.dict := rfl
@[simp] theorem countRpos_dv (s : State) : (s.countRpos).dv = s.dv := rfl
@[simp] theorem countRpos_esc (s : State) : (s.countRpos).esc = s.esc := rfl
@[simp] theorem countRpos_rlev (s : State) : (s.countRpos).rlev = s.rlev := rfl
@[simp] theorem countRpos_rpos (s : State) :
    (s.countRpos).rpos = fit64 (s.rpos.toNat + 1) s.free 0 := rfl
@[simp] theorem countRpos_ocnt (s : State) : (s.countRpos).ocnt = s.ocnt := rfl
@[simp] theorem countRpos_cap (s : State) : (s.countRpos).cap = s.cap := rfl
@[simp] theorem countRpos_err (s : State) : (s.countRpos).err = s.err := rfl
@[simp] theorem countRpos_scanv (s : State) : (s.countRpos).scanv = s.scanv := rfl
@[simp] theorem countRpos_outv (s : State) : (s.countRpos).outv = s.outv := rfl
@[simp] theorem countRpos_nfr (s : State) : (s.countRpos).nfr = s.nfr := rfl
@[simp] theorem countRpos_cfg (s : State) : (s.countRpos).cfg = s.cfg := rfl
@[simp] theorem countRpos_inp (s : State) : (s.countRpos).inp = s.inp := rfl
@[simp] theorem countRpos_blen (s : State) : (s.countRpos).blen = s.blen := rfl
@[simp] theorem countRpos_streams (s : State) : (s.countRpos).streams = s.streams := rfl
@[simp] theorem countRpos_out (s : State) : (s.countRpos).out = s.out := rfl
@[simp] theorem countRpos_olen (s : State) : (s.countRpos).olen = s.olen := rfl
@[simp] theorem countRpos_resp (s : State) : (s.countRpos).resp = s.resp := rfl
@[simp] theorem countRpos_free (s : State) :
    (s.countRpos).free = s.free + fitDraws (s.rpos.toNat + 1) := rfl

@[simp] theorem resetDatapath_port (s : State) : (s.resetDatapath).port = s.port := rfl
@[simp] theorem resetDatapath_ks (s : State) : (s.resetDatapath).ks = State.reset.ks := rfl
@[simp] theorem resetDatapath_ksv (s : State) : (s.resetDatapath).ksv = State.reset.ksv := rfl
@[simp] theorem resetDatapath_dpos (s : State) : (s.resetDatapath).dpos = State.reset.dpos := rfl
@[simp] theorem resetDatapath_cs (s : State) : (s.resetDatapath).cs = State.reset.cs := rfl
@[simp] theorem resetDatapath_csv (s : State) : (s.resetDatapath).csv = State.reset.csv := rfl
@[simp] theorem resetDatapath_dict (s : State) : (s.resetDatapath).dict = State.reset.dict := rfl
@[simp] theorem resetDatapath_dv (s : State) : (s.resetDatapath).dv = State.reset.dv := rfl
@[simp] theorem resetDatapath_esc (s : State) : (s.resetDatapath).esc = State.reset.esc := rfl
@[simp] theorem resetDatapath_rlev (s : State) : (s.resetDatapath).rlev = State.reset.rlev := rfl
@[simp] theorem resetDatapath_rpos (s : State) : (s.resetDatapath).rpos = State.reset.rpos := rfl
@[simp] theorem resetDatapath_ocnt (s : State) : (s.resetDatapath).ocnt = State.reset.ocnt := rfl
@[simp] theorem resetDatapath_cap (s : State) : (s.resetDatapath).cap = State.reset.cap := rfl
@[simp] theorem resetDatapath_err (s : State) : (s.resetDatapath).err = s.err := rfl
@[simp] theorem resetDatapath_scanv (s : State) : (s.resetDatapath).scanv = s.scanv := rfl
@[simp] theorem resetDatapath_outv (s : State) : (s.resetDatapath).outv = s.outv := rfl
@[simp] theorem resetDatapath_nfr (s : State) : (s.resetDatapath).nfr = s.nfr := rfl
@[simp] theorem resetDatapath_cfg (s : State) : (s.resetDatapath).cfg = s.cfg := rfl
@[simp] theorem resetDatapath_inp (s : State) : (s.resetDatapath).inp = s.inp := rfl
@[simp] theorem resetDatapath_blen (s : State) : (s.resetDatapath).blen = s.blen := rfl
@[simp] theorem resetDatapath_streams (s : State) : (s.resetDatapath).streams = s.streams := rfl
@[simp] theorem resetDatapath_out (s : State) : (s.resetDatapath).out = s.out := rfl
@[simp] theorem resetDatapath_olen (s : State) : (s.resetDatapath).olen = s.olen := rfl
@[simp] theorem resetDatapath_resp (s : State) : (s.resetDatapath).resp = s.resp := rfl
@[simp] theorem resetDatapath_free (s : State) : (s.resetDatapath).free = s.free := rfl

@[simp] theorem setCfg_port (f : Fin 3) (c : StreamCfg) (s : State) :
    (s.setCfg f c).port = s.port := rfl
@[simp] theorem setCfg_ks (f : Fin 3) (c : StreamCfg) (s : State) : (s.setCfg f c).ks = s.ks := rfl
@[simp] theorem setCfg_ksv (f : Fin 3) (c : StreamCfg) (s : State) :
    (s.setCfg f c).ksv = s.ksv := rfl
@[simp] theorem setCfg_dpos (f : Fin 3) (c : StreamCfg) (s : State) :
    (s.setCfg f c).dpos = s.dpos := rfl
@[simp] theorem setCfg_cs (f : Fin 3) (c : StreamCfg) (s : State) : (s.setCfg f c).cs = s.cs := rfl
@[simp] theorem setCfg_csv (f : Fin 3) (c : StreamCfg) (s : State) :
    (s.setCfg f c).csv = s.csv := rfl
@[simp] theorem setCfg_dict (f : Fin 3) (c : StreamCfg) (s : State) :
    (s.setCfg f c).dict = s.dict := rfl
@[simp] theorem setCfg_dv (f : Fin 3) (c : StreamCfg) (s : State) : (s.setCfg f c).dv = s.dv := rfl
@[simp] theorem setCfg_esc (f : Fin 3) (c : StreamCfg) (s : State) :
    (s.setCfg f c).esc = s.esc := rfl
@[simp] theorem setCfg_rlev (f : Fin 3) (c : StreamCfg) (s : State) :
    (s.setCfg f c).rlev = s.rlev := rfl
@[simp] theorem setCfg_rpos (f : Fin 3) (c : StreamCfg) (s : State) :
    (s.setCfg f c).rpos = s.rpos := rfl
@[simp] theorem setCfg_ocnt (f : Fin 3) (c : StreamCfg) (s : State) :
    (s.setCfg f c).ocnt = s.ocnt := rfl
@[simp] theorem setCfg_cap (f : Fin 3) (c : StreamCfg) (s : State) :
    (s.setCfg f c).cap = s.cap := rfl
@[simp] theorem setCfg_err (f : Fin 3) (c : StreamCfg) (s : State) :
    (s.setCfg f c).err = s.err := rfl
@[simp] theorem setCfg_scanv (f : Fin 3) (c : StreamCfg) (s : State) :
    (s.setCfg f c).scanv = s.scanv := rfl
@[simp] theorem setCfg_outv (f : Fin 3) (c : StreamCfg) (s : State) :
    (s.setCfg f c).outv = s.outv := rfl
@[simp] theorem setCfg_nfr (f : Fin 3) (c : StreamCfg) (s : State) :
    (s.setCfg f c).nfr = s.nfr := rfl
@[simp] theorem setCfg_cfg (f : Fin 3) (c : StreamCfg) (s : State) :
    (s.setCfg f c).cfg = s.cfg.set f c := rfl
@[simp] theorem setCfg_inp (f : Fin 3) (c : StreamCfg) (s : State) :
    (s.setCfg f c).inp = s.inp := rfl
@[simp] theorem setCfg_blen (f : Fin 3) (c : StreamCfg) (s : State) :
    (s.setCfg f c).blen = s.blen := rfl
@[simp] theorem setCfg_streams (f : Fin 3) (c : StreamCfg) (s : State) :
    (s.setCfg f c).streams = s.streams := rfl
@[simp] theorem setCfg_out (f : Fin 3) (c : StreamCfg) (s : State) :
    (s.setCfg f c).out = s.out := rfl
@[simp] theorem setCfg_olen (f : Fin 3) (c : StreamCfg) (s : State) :
    (s.setCfg f c).olen = s.olen := rfl
@[simp] theorem setCfg_resp (f : Fin 3) (c : StreamCfg) (s : State) :
    (s.setCfg f c).resp = s.resp := rfl
@[simp] theorem setCfg_free (f : Fin 3) (c : StreamCfg) (s : State) :
    (s.setCfg f c).free = s.free := rfl

@[simp] theorem toReset_port (s : State) : (s.toReset).port = s.port := rfl
@[simp] theorem toReset_ks (s : State) : (s.toReset).ks = State.reset.ks := rfl
@[simp] theorem toReset_ksv (s : State) : (s.toReset).ksv = State.reset.ksv := rfl
@[simp] theorem toReset_dpos (s : State) : (s.toReset).dpos = State.reset.dpos := rfl
@[simp] theorem toReset_cs (s : State) : (s.toReset).cs = State.reset.cs := rfl
@[simp] theorem toReset_csv (s : State) : (s.toReset).csv = State.reset.csv := rfl
@[simp] theorem toReset_dict (s : State) : (s.toReset).dict = State.reset.dict := rfl
@[simp] theorem toReset_dv (s : State) : (s.toReset).dv = State.reset.dv := rfl
@[simp] theorem toReset_esc (s : State) : (s.toReset).esc = State.reset.esc := rfl
@[simp] theorem toReset_rlev (s : State) : (s.toReset).rlev = State.reset.rlev := rfl
@[simp] theorem toReset_rpos (s : State) : (s.toReset).rpos = State.reset.rpos := rfl
@[simp] theorem toReset_ocnt (s : State) : (s.toReset).ocnt = State.reset.ocnt := rfl
@[simp] theorem toReset_cap (s : State) : (s.toReset).cap = State.reset.cap := rfl
@[simp] theorem toReset_err (s : State) : (s.toReset).err = State.reset.err := rfl
@[simp] theorem toReset_scanv (s : State) : (s.toReset).scanv = State.reset.scanv := rfl
@[simp] theorem toReset_outv (s : State) : (s.toReset).outv = State.reset.outv := rfl
@[simp] theorem toReset_nfr (s : State) : (s.toReset).nfr = State.reset.nfr := rfl
@[simp] theorem toReset_cfg (s : State) : (s.toReset).cfg = State.reset.cfg := rfl
@[simp] theorem toReset_inp (s : State) : (s.toReset).inp = s.inp := rfl
@[simp] theorem toReset_blen (s : State) : (s.toReset).blen = s.blen := rfl
@[simp] theorem toReset_streams (s : State) : (s.toReset).streams = State.reset.streams := rfl
@[simp] theorem toReset_out (s : State) : (s.toReset).out = State.reset.out := rfl
@[simp] theorem toReset_olen (s : State) : (s.toReset).olen = State.reset.olen := rfl
@[simp] theorem toReset_resp (s : State) : (s.toReset).resp = State.reset.resp := rfl
@[simp] theorem toReset_free (s : State) : (s.toReset).free = s.free := rfl

@[simp] theorem issue_port (r : Request) (s : State) : (s.issue r).port = r :: s.port := rfl
@[simp] theorem issue_ks (r : Request) (s : State) : (s.issue r).ks = s.ks := rfl
@[simp] theorem issue_ksv (r : Request) (s : State) : (s.issue r).ksv = s.ksv := rfl
@[simp] theorem issue_dpos (r : Request) (s : State) : (s.issue r).dpos = s.dpos := rfl
@[simp] theorem issue_cs (r : Request) (s : State) : (s.issue r).cs = s.cs := rfl
@[simp] theorem issue_csv (r : Request) (s : State) : (s.issue r).csv = s.csv := rfl
@[simp] theorem issue_dict (r : Request) (s : State) : (s.issue r).dict = s.dict := rfl
@[simp] theorem issue_dv (r : Request) (s : State) : (s.issue r).dv = s.dv := rfl
@[simp] theorem issue_esc (r : Request) (s : State) : (s.issue r).esc = s.esc := rfl
@[simp] theorem issue_rlev (r : Request) (s : State) : (s.issue r).rlev = s.rlev := rfl
@[simp] theorem issue_rpos (r : Request) (s : State) : (s.issue r).rpos = s.rpos := rfl
@[simp] theorem issue_ocnt (r : Request) (s : State) : (s.issue r).ocnt = s.ocnt := rfl
@[simp] theorem issue_cap (r : Request) (s : State) : (s.issue r).cap = s.cap := rfl
@[simp] theorem issue_err (r : Request) (s : State) : (s.issue r).err = s.err := rfl
@[simp] theorem issue_scanv (r : Request) (s : State) : (s.issue r).scanv = s.scanv := rfl
@[simp] theorem issue_outv (r : Request) (s : State) : (s.issue r).outv = s.outv := rfl
@[simp] theorem issue_nfr (r : Request) (s : State) : (s.issue r).nfr = s.nfr := rfl
@[simp] theorem issue_cfg (r : Request) (s : State) : (s.issue r).cfg = s.cfg := rfl
@[simp] theorem issue_inp (r : Request) (s : State) : (s.issue r).inp = s.inp := rfl
@[simp] theorem issue_blen (r : Request) (s : State) : (s.issue r).blen = s.blen := rfl
@[simp] theorem issue_streams (r : Request) (s : State) : (s.issue r).streams = s.streams := rfl
@[simp] theorem issue_out (r : Request) (s : State) : (s.issue r).out = s.out := rfl
@[simp] theorem issue_olen (r : Request) (s : State) : (s.issue r).olen = s.olen := rfl
@[simp] theorem issue_resp (r : Request) (s : State) : (s.issue r).resp = s.resp := rfl
@[simp] theorem issue_free (r : Request) (s : State) : (s.issue r).free = s.free := rfl

/-! ### The operations of the chain analyzer and the orchestrator -/

@[simp] theorem beginScan_port (s : State) : (beginScan s).port = s.port := rfl
@[simp] theorem beginScan_ks (s : State) : (beginScan s).ks = s.ks := rfl
@[simp] theorem beginScan_ksv (s : State) : (beginScan s).ksv = s.ksv := rfl
@[simp] theorem beginScan_dpos (s : State) : (beginScan s).dpos = s.dpos := rfl
@[simp] theorem beginScan_cs (s : State) : (beginScan s).cs = s.cs := rfl
@[simp] theorem beginScan_csv (s : State) : (beginScan s).csv = s.csv := rfl
@[simp] theorem beginScan_dict (s : State) : (beginScan s).dict = s.dict := rfl
@[simp] theorem beginScan_dv (s : State) : (beginScan s).dv = s.dv := rfl
@[simp] theorem beginScan_esc (s : State) : (beginScan s).esc = s.esc := rfl
@[simp] theorem beginScan_rlev (s : State) : (beginScan s).rlev = s.rlev := rfl
@[simp] theorem beginScan_rpos (s : State) : (beginScan s).rpos = s.rpos := rfl
@[simp] theorem beginScan_ocnt (s : State) : (beginScan s).ocnt = s.ocnt := rfl
@[simp] theorem beginScan_cap (s : State) : (beginScan s).cap = s.cap := rfl
@[simp] theorem beginScan_err (s : State) : (beginScan s).err = s.err := rfl
@[simp] theorem beginScan_scanv (s : State) : (beginScan s).scanv = false := rfl
@[simp] theorem beginScan_outv (s : State) : (beginScan s).outv = false := rfl
@[simp] theorem beginScan_nfr (s : State) : (beginScan s).nfr = 0 := rfl
@[simp] theorem beginScan_cfg (s : State) : (beginScan s).cfg = s.cfg := rfl
@[simp] theorem beginScan_inp (s : State) : (beginScan s).inp = s.inp := rfl
@[simp] theorem beginScan_blen (s : State) : (beginScan s).blen = s.blen := rfl
@[simp] theorem beginScan_streams (s : State) : (beginScan s).streams = s.streams := rfl
@[simp] theorem beginScan_out (s : State) : (beginScan s).out = s.out := rfl
@[simp] theorem beginScan_olen (s : State) : (beginScan s).olen = s.olen := rfl
@[simp] theorem beginScan_resp (s : State) : (beginScan s).resp = s.resp := rfl
@[simp] theorem beginScan_free (s : State) : (beginScan s).free = s.free := rfl

@[simp] theorem recordScan_port (fs : List StreamCfg) (s : State) :
    (recordScan fs s).port = s.port := rfl
@[simp] theorem recordScan_ks (fs : List StreamCfg) (s : State) : (recordScan fs s).ks = s.ks := rfl
@[simp] theorem recordScan_ksv (fs : List StreamCfg) (s : State) :
    (recordScan fs s).ksv = s.ksv := rfl
@[simp] theorem recordScan_dpos (fs : List StreamCfg) (s : State) :
    (recordScan fs s).dpos = s.dpos := rfl
@[simp] theorem recordScan_cs (fs : List StreamCfg) (s : State) : (recordScan fs s).cs = s.cs := rfl
@[simp] theorem recordScan_csv (fs : List StreamCfg) (s : State) :
    (recordScan fs s).csv = s.csv := rfl
@[simp] theorem recordScan_dict (fs : List StreamCfg) (s : State) :
    (recordScan fs s).dict = s.dict := rfl
@[simp] theorem recordScan_dv (fs : List StreamCfg) (s : State) : (recordScan fs s).dv = s.dv := rfl
@[simp] theorem recordScan_esc (fs : List StreamCfg) (s : State) :
    (recordScan fs s).esc = s.esc := rfl
@[simp] theorem recordScan_rlev (fs : List StreamCfg) (s : State) :
    (recordScan fs s).rlev = s.rlev := rfl
@[simp] theorem recordScan_rpos (fs : List StreamCfg) (s : State) :
    (recordScan fs s).rpos = s.rpos := rfl
@[simp] theorem recordScan_ocnt (fs : List StreamCfg) (s : State) :
    (recordScan fs s).ocnt = s.ocnt := rfl
@[simp] theorem recordScan_cap (fs : List StreamCfg) (s : State) :
    (recordScan fs s).cap = s.cap := rfl
@[simp] theorem recordScan_err (fs : List StreamCfg) (s : State) :
    (recordScan fs s).err = s.err := rfl
@[simp] theorem recordScan_scanv (fs : List StreamCfg) (s : State) :
    (recordScan fs s).scanv = true := rfl
@[simp] theorem recordScan_outv (fs : List StreamCfg) (s : State) :
    (recordScan fs s).outv = s.outv := rfl
@[simp] theorem recordScan_nfr (fs : List StreamCfg) (s : State) :
    (recordScan fs s).nfr = BitVec.ofNat 2 fs.length := rfl
@[simp] theorem recordScan_cfg (fs : List StreamCfg) (s : State) :
    (recordScan fs s).cfg = scannedCfg fs s.cfg := rfl
@[simp] theorem recordScan_inp (fs : List StreamCfg) (s : State) :
    (recordScan fs s).inp = s.inp := rfl
@[simp] theorem recordScan_blen (fs : List StreamCfg) (s : State) :
    (recordScan fs s).blen = s.blen := rfl
@[simp] theorem recordScan_streams (fs : List StreamCfg) (s : State) :
    (recordScan fs s).streams = s.streams := rfl
@[simp] theorem recordScan_out (fs : List StreamCfg) (s : State) :
    (recordScan fs s).out = s.out := rfl
@[simp] theorem recordScan_olen (fs : List StreamCfg) (s : State) :
    (recordScan fs s).olen = s.olen := rfl
@[simp] theorem recordScan_resp (fs : List StreamCfg) (s : State) :
    (recordScan fs s).resp = s.resp := rfl
@[simp] theorem recordScan_free (fs : List StreamCfg) (s : State) :
    (recordScan fs s).free = s.free := rfl

@[simp] theorem recordNoScan_port (s : State) : (recordNoScan s).port = s.port := rfl
@[simp] theorem recordNoScan_ks (s : State) : (recordNoScan s).ks = s.ks := rfl
@[simp] theorem recordNoScan_ksv (s : State) : (recordNoScan s).ksv = s.ksv := rfl
@[simp] theorem recordNoScan_dpos (s : State) : (recordNoScan s).dpos = s.dpos := rfl
@[simp] theorem recordNoScan_cs (s : State) : (recordNoScan s).cs = s.cs := rfl
@[simp] theorem recordNoScan_csv (s : State) : (recordNoScan s).csv = s.csv := rfl
@[simp] theorem recordNoScan_dict (s : State) : (recordNoScan s).dict = s.dict := rfl
@[simp] theorem recordNoScan_dv (s : State) : (recordNoScan s).dv = s.dv := rfl
@[simp] theorem recordNoScan_esc (s : State) : (recordNoScan s).esc = s.esc := rfl
@[simp] theorem recordNoScan_rlev (s : State) : (recordNoScan s).rlev = s.rlev := rfl
@[simp] theorem recordNoScan_rpos (s : State) : (recordNoScan s).rpos = s.rpos := rfl
@[simp] theorem recordNoScan_ocnt (s : State) : (recordNoScan s).ocnt = s.ocnt := rfl
@[simp] theorem recordNoScan_cap (s : State) : (recordNoScan s).cap = s.cap := rfl
@[simp] theorem recordNoScan_err (s : State) : (recordNoScan s).err = s.err := rfl
@[simp] theorem recordNoScan_scanv (s : State) : (recordNoScan s).scanv = s.scanv := rfl
@[simp] theorem recordNoScan_outv (s : State) : (recordNoScan s).outv = s.outv := rfl
@[simp] theorem recordNoScan_nfr (s : State) : (recordNoScan s).nfr = s.nfr := rfl
@[simp] theorem recordNoScan_cfg (s : State) :
    (recordNoScan s).cfg = Vector.ofFn fun f => freeCfg s.free f.val := rfl
@[simp] theorem recordNoScan_inp (s : State) : (recordNoScan s).inp = s.inp := rfl
@[simp] theorem recordNoScan_blen (s : State) : (recordNoScan s).blen = s.blen := rfl
@[simp] theorem recordNoScan_streams (s : State) : (recordNoScan s).streams = s.streams := rfl
@[simp] theorem recordNoScan_out (s : State) : (recordNoScan s).out = s.out := rfl
@[simp] theorem recordNoScan_olen (s : State) : (recordNoScan s).olen = s.olen := rfl
@[simp] theorem recordNoScan_resp (s : State) : (recordNoScan s).resp = s.resp := rfl
@[simp] theorem recordNoScan_free (s : State) : (recordNoScan s).free = s.free := rfl

@[simp] theorem beginDecode_port (s : State) : (beginDecode s).port = s.port := rfl
@[simp] theorem beginDecode_ks (s : State) : (beginDecode s).ks = State.reset.ks := rfl
@[simp] theorem beginDecode_ksv (s : State) : (beginDecode s).ksv = State.reset.ksv := rfl
@[simp] theorem beginDecode_dpos (s : State) : (beginDecode s).dpos = State.reset.dpos := rfl
@[simp] theorem beginDecode_cs (s : State) : (beginDecode s).cs = State.reset.cs := rfl
@[simp] theorem beginDecode_csv (s : State) : (beginDecode s).csv = State.reset.csv := rfl
@[simp] theorem beginDecode_dict (s : State) : (beginDecode s).dict = State.reset.dict := rfl
@[simp] theorem beginDecode_dv (s : State) : (beginDecode s).dv = State.reset.dv := rfl
@[simp] theorem beginDecode_esc (s : State) : (beginDecode s).esc = State.reset.esc := rfl
@[simp] theorem beginDecode_rlev (s : State) : (beginDecode s).rlev = State.reset.rlev := rfl
@[simp] theorem beginDecode_rpos (s : State) : (beginDecode s).rpos = State.reset.rpos := rfl
@[simp] theorem beginDecode_ocnt (s : State) : (beginDecode s).ocnt = State.reset.ocnt := rfl
@[simp] theorem beginDecode_cap (s : State) : (beginDecode s).cap = State.reset.cap := rfl
@[simp] theorem beginDecode_err (s : State) : (beginDecode s).err = s.err := rfl
@[simp] theorem beginDecode_scanv (s : State) : (beginDecode s).scanv = false := rfl
@[simp] theorem beginDecode_outv (s : State) : (beginDecode s).outv = false := rfl
@[simp] theorem beginDecode_nfr (s : State) : (beginDecode s).nfr = 0 := rfl
@[simp] theorem beginDecode_cfg (s : State) : (beginDecode s).cfg = s.cfg := rfl
@[simp] theorem beginDecode_inp (s : State) : (beginDecode s).inp = s.inp := rfl
@[simp] theorem beginDecode_blen (s : State) : (beginDecode s).blen = s.blen := rfl
@[simp] theorem beginDecode_streams (s : State) : (beginDecode s).streams = s.streams := rfl
@[simp] theorem beginDecode_out (s : State) : (beginDecode s).out = s.out := rfl
@[simp] theorem beginDecode_olen (s : State) : (beginDecode s).olen = 0 := rfl
@[simp] theorem beginDecode_resp (s : State) : (beginDecode s).resp = s.resp := rfl
@[simp] theorem beginDecode_free (s : State) : (beginDecode s).free = s.free := rfl

@[simp] theorem fillStreams_port (ss : List (List Byte)) (s : State) :
    (fillStreams ss s).port = s.port := rfl
@[simp] theorem fillStreams_ks (ss : List (List Byte)) (s : State) :
    (fillStreams ss s).ks = s.ks := rfl
@[simp] theorem fillStreams_ksv (ss : List (List Byte)) (s : State) :
    (fillStreams ss s).ksv = s.ksv := rfl
@[simp] theorem fillStreams_dpos (ss : List (List Byte)) (s : State) :
    (fillStreams ss s).dpos = s.dpos := rfl
@[simp] theorem fillStreams_cs (ss : List (List Byte)) (s : State) :
    (fillStreams ss s).cs = s.cs := rfl
@[simp] theorem fillStreams_csv (ss : List (List Byte)) (s : State) :
    (fillStreams ss s).csv = s.csv := rfl
@[simp] theorem fillStreams_dict (ss : List (List Byte)) (s : State) :
    (fillStreams ss s).dict = s.dict := rfl
@[simp] theorem fillStreams_dv (ss : List (List Byte)) (s : State) :
    (fillStreams ss s).dv = s.dv := rfl
@[simp] theorem fillStreams_esc (ss : List (List Byte)) (s : State) :
    (fillStreams ss s).esc = s.esc := rfl
@[simp] theorem fillStreams_rlev (ss : List (List Byte)) (s : State) :
    (fillStreams ss s).rlev = s.rlev := rfl
@[simp] theorem fillStreams_rpos (ss : List (List Byte)) (s : State) :
    (fillStreams ss s).rpos = s.rpos := rfl
@[simp] theorem fillStreams_ocnt (ss : List (List Byte)) (s : State) :
    (fillStreams ss s).ocnt = s.ocnt := rfl
@[simp] theorem fillStreams_cap (ss : List (List Byte)) (s : State) :
    (fillStreams ss s).cap = s.cap := rfl
@[simp] theorem fillStreams_err (ss : List (List Byte)) (s : State) :
    (fillStreams ss s).err = s.err := rfl
@[simp] theorem fillStreams_scanv (ss : List (List Byte)) (s : State) :
    (fillStreams ss s).scanv = s.scanv := rfl
@[simp] theorem fillStreams_outv (ss : List (List Byte)) (s : State) :
    (fillStreams ss s).outv = s.outv := rfl
@[simp] theorem fillStreams_nfr (ss : List (List Byte)) (s : State) :
    (fillStreams ss s).nfr = s.nfr := rfl
@[simp] theorem fillStreams_cfg (ss : List (List Byte)) (s : State) :
    (fillStreams ss s).cfg = s.cfg := rfl
@[simp] theorem fillStreams_inp (ss : List (List Byte)) (s : State) :
    (fillStreams ss s).inp = s.inp := rfl
@[simp] theorem fillStreams_blen (ss : List (List Byte)) (s : State) :
    (fillStreams ss s).blen = s.blen := rfl
@[simp] theorem fillStreams_streams (ss : List (List Byte)) (s : State) :
    (fillStreams ss s).streams = Vector.ofFn fun f => ss.getD f.val [] := rfl
@[simp] theorem fillStreams_out (ss : List (List Byte)) (s : State) :
    (fillStreams ss s).out = s.out := rfl
@[simp] theorem fillStreams_olen (ss : List (List Byte)) (s : State) :
    (fillStreams ss s).olen = s.olen := rfl
@[simp] theorem fillStreams_resp (ss : List (List Byte)) (s : State) :
    (fillStreams ss s).resp = s.resp := rfl
@[simp] theorem fillStreams_free (ss : List (List Byte)) (s : State) :
    (fillStreams ss s).free = s.free := rfl

@[simp] theorem endDecode_port (s : State) : (endDecode s).port = s.port := rfl
@[simp] theorem endDecode_ks (s : State) : (endDecode s).ks = State.reset.ks := rfl
@[simp] theorem endDecode_ksv (s : State) : (endDecode s).ksv = State.reset.ksv := rfl
@[simp] theorem endDecode_dpos (s : State) : (endDecode s).dpos = State.reset.dpos := rfl
@[simp] theorem endDecode_cs (s : State) : (endDecode s).cs = State.reset.cs := rfl
@[simp] theorem endDecode_csv (s : State) : (endDecode s).csv = State.reset.csv := rfl
@[simp] theorem endDecode_dict (s : State) : (endDecode s).dict = State.reset.dict := rfl
@[simp] theorem endDecode_dv (s : State) : (endDecode s).dv = State.reset.dv := rfl
@[simp] theorem endDecode_esc (s : State) : (endDecode s).esc = State.reset.esc := rfl
@[simp] theorem endDecode_rlev (s : State) : (endDecode s).rlev = State.reset.rlev := rfl
@[simp] theorem endDecode_rpos (s : State) : (endDecode s).rpos = State.reset.rpos := rfl
@[simp] theorem endDecode_ocnt (s : State) : (endDecode s).ocnt = State.reset.ocnt := rfl
@[simp] theorem endDecode_cap (s : State) : (endDecode s).cap = State.reset.cap := rfl
@[simp] theorem endDecode_err (s : State) : (endDecode s).err = s.err := rfl
@[simp] theorem endDecode_scanv (s : State) : (endDecode s).scanv = s.scanv := rfl
@[simp] theorem endDecode_outv (s : State) : (endDecode s).outv = s.outv := rfl
@[simp] theorem endDecode_nfr (s : State) : (endDecode s).nfr = s.nfr := rfl
@[simp] theorem endDecode_cfg (s : State) : (endDecode s).cfg = s.cfg := rfl
@[simp] theorem endDecode_inp (s : State) : (endDecode s).inp = s.inp := rfl
@[simp] theorem endDecode_blen (s : State) : (endDecode s).blen = s.blen := rfl
@[simp] theorem endDecode_streams (s : State) : (endDecode s).streams = State.reset.streams := rfl
@[simp] theorem endDecode_out (s : State) : (endDecode s).out = s.out := rfl
@[simp] theorem endDecode_olen (s : State) : (endDecode s).olen = s.olen := rfl
@[simp] theorem endDecode_resp (s : State) : (endDecode s).resp = s.resp := rfl
@[simp] theorem endDecode_free (s : State) : (endDecode s).free = s.free + 1 := rfl

end Sys2Proof.Machine
end

