-- ==== Sys2Proof/Laws/Ops.lean ====
section
/-! SUPPORT. What each shared operation can do, said once. -/

namespace Sys2Proof.Machine

open Sys2Proof (Byte Word16 Word64)

/-! ### Ready or refused -/

theorem whenReady_ready {f : State → State} {s : State} (h : s.err = 0) : whenReady f s = f s :=
  if_pos h

theorem whenReady_refused {f : State → State} {s : State} (h : s.err ≠ 0) :
    whenReady f s = refuse s := if_neg h

/-- With ERR = 0 an error is latched as its code. -/
theorem takeError_ready {e : Error} {d : List Byte} {s : State} (h : s.err = 0) :
    takeError e d s = { s with err := e.code, resp := { err := e.code, val := 0, data := d } } := by
  simp only [takeError, respond, State.latch, if_pos h]

/-- With ERR set an error changes the response alone. -/
theorem takeError_latched {e : Error} {d : List Byte} {s : State} (h : s.err ≠ 0) :
    takeError e d s = { s with resp := { err := s.err, val := 0, data := d } } := by
  simp only [takeError, respond, State.latch, if_neg h]

/-! ### Numbers -/

theorem alignUp_eq (x : Nat) : alignUp x = (x + 4095) / 4096 * 4096 := by
  simp only [alignUp, Config.frameAlign]
  omega

theorem alignUp_mod (x : Nat) : alignUp x % 4096 = 0 := by rw [alignUp_eq]; omega

theorem le_alignUp (x : Nat) : x ≤ alignUp x := by rw [alignUp_eq]; omega

/-- A multiple of 4096 and at most one block more go to the next multiple. -/
theorem alignUp_next {x h : Nat} (hx : x % 4096 = 0) (h0 : 0 < h) (h1 : h ≤ 4096) :
    alignUp (x + h) = x + 4096 := by rw [alignUp_eq]; omega

theorem fit64_of_lt {n : Nat} (draw slot : Nat) (h : n < 2 ^ 64) :
    fit64 n draw slot = BitVec.ofNat 64 n := if_pos h

theorem fit64_toNat {n : Nat} (draw slot : Nat) (h : n < 2 ^ 64) : (fit64 n draw slot).toNat = n := by
  rw [fit64_of_lt _ _ h, BitVec.toNat_ofNat, Nat.mod_eq_of_lt h]

theorem fitDraws_of_lt {n : Nat} (h : n < 2 ^ 64) : fitDraws n = 0 := if_pos h

/-- Counting below 2^64 adds one and draws nothing. -/
theorem fit64_succ {x : Word64} (draw slot : Nat) (h : x.toNat + 1 < 2 ^ 64) :
    fit64 (x.toNat + 1) draw slot = x + 1 := by
  apply BitVec.eq_of_toNat_eq
  rw [fit64_toNat _ _ h, BitVec.toNat_add]
  exact (Nat.mod_eq_of_lt h).symm

/-! ### Reading IN -/

/-- A read inside IN is answered. -/
theorem memRead_inside {inp : Memory} {blen a n : Nat} (h : n = 0 ∨ a + n ≤ blen) :
    memRead inp blen a n = .ok (inp.readRange a n) := by simp [memRead, h]

theorem memRead_ok {inp : Memory} {blen a n : Nat} {d : List Byte} (h : memRead inp blen a n = .ok d) :
    (n = 0 ∨ a + n ≤ blen) ∧ d = inp.readRange a n := by
  unfold memRead at h
  split at h
  · next hg => exact ⟨hg, by simpa using h.symm⟩
  · simp at h

/-! ### The port -/

/-- What the next step runs, by what stands at the front of the port. -/
theorem fetch_cases (s : State) :
    (s.port = [] ∧ fetch s = .idle) ∨
    (∃ w rest i, s.port = .command w :: rest ∧ decodeCommand w = .ok i ∧
      fetch s = .run i { s with port := rest }) ∨
    (∃ w rest e, s.port = .command w :: rest ∧ decodeCommand w = .error e ∧
      fetch s = .illegal { s with port := rest }) ∨
    (∃ rest, s.port = .stream [] :: rest ∧ fetch s = .drained { s with port := rest }) ∨
    (∃ b bytes rest i left, s.port = .stream (b :: bytes) :: rest ∧
      decodeToken (b :: bytes) = .ok (i, left) ∧
      fetch s = .run i { s with port := pushStream left rest }) ∨
    (∃ b bytes rest e, s.port = .stream (b :: bytes) :: rest ∧
      decodeToken (b :: bytes) = .error e ∧
      fetch s = .run (.rleByte b) { s with port := pushStream bytes rest }) := by
  match hp : s.port with
  | [] => simp [fetch, hp]
  | .command w :: rest =>
    cases hd : decodeCommand w with
    | ok i => exact .inr (.inl ⟨w, rest, i, rfl, hd, by simp [fetch, hp, hd]⟩)
    | error e => exact .inr (.inr (.inl ⟨w, rest, e, rfl, hd, by simp [fetch, hp, hd]⟩))
  | .stream [] :: rest => exact .inr (.inr (.inr (.inl ⟨rest, rfl, by simp [fetch, hp]⟩)))
  | .stream (b :: bytes) :: rest =>
    cases hd : decodeToken (b :: bytes) with
    | ok r =>
      exact .inr (.inr (.inr (.inr (.inl ⟨b, bytes, rest, r.1, r.2, rfl, hd, by
        simp [fetch, hp, hd]⟩))))
    | error e =>
      exact .inr (.inr (.inr (.inr (.inr ⟨b, bytes, rest, e, rfl, hd, by
        simp [fetch, hp, hd]⟩))))

/-! ### Registers -/

/-- A record set in a slot is found there, and the other slots are as they were. -/
theorem setCfg_getElem (f g : Fin 3) (c : StreamCfg) (s : State) :
    (s.setCfg f c).cfg[g] = if f = g then c else s.cfg[g] := by
  simp only [State.setCfg, Fin.getElem_fin, Vector.getElem_set, Fin.ext_iff]

/-- What RDREG does: an unassigned number is ProtocolError; a value is answered; an unspecified value
is a free one within its register's bits, counted in `free`. -/
theorem readRegister_cases (r : BitVec 8) (s : State) :
    (regOf r = none ∧ readRegister r s = takeError .protocol [] s) ∨
    (∃ g v, regOf r = some g ∧ s.readReg g = .known v ∧ readRegister r s = respond v [] s) ∨
    (∃ g mask, regOf r = some g ∧ s.readReg g = .unspecified mask ∧
      readRegister r s = respond (Config.freeValue s.free 0 &&& mask) [] s.drawn) := by
  unfold readRegister
  cases hr : regOf r with
  | none => exact .inl ⟨rfl, rfl⟩
  | some g =>
    cases hg : s.readReg g with
    | known v => exact .inr (.inl ⟨g, v, rfl, hg, by simp only [hg]⟩)
    | unspecified mask => exact .inr (.inr ⟨g, mask, rfl, hg, by simp only [hg]⟩)

/-! ### The decompressor -/

theorem runCount_eq (c : Byte) : runCount c = c.toNat / 16 := by
  revert c; decide +kernel

theorem runIndex_toNat (c : Byte) : (runIndex c).toNat = c.toNat % 16 := by
  revert c; decide +kernel

/-- The two nibbles of a run's byte are the ones it was made of. -/
theorem runByte_nibbles (count index : BitVec 4) :
    runCount (runByte count index) = count.toNat ∧ runIndex (runByte count index) = index := by
  revert count index; decide +kernel

/-- No token emits more than 15 bytes. -/
theorem tokenOutput_length (dict : Vector Byte 16) (c : Byte) :
    (tokenOutput dict c).length ≤ 15 := by
  unfold tokenOutput
  split
  · simp
  · simp only [List.length_replicate, runCount_eq]
    omega

/-- An output that fits is delivered whole. -/
theorem deliver_fits {val : State → Word64} {bytes : List Byte} {s : State}
    (h : bytes.length ≤ s.cap.toNat - s.ocnt.toNat) :
    deliver val bytes s =
      respond (val { s with ocnt := s.ocnt + BitVec.ofNat 64 bytes.length }) bytes
        { s with ocnt := s.ocnt + BitVec.ofNat 64 bytes.length } := if_pos h

/-- An output that does not fit is cut, and the decompression ends. -/
theorem deliver_full {val : State → Word64} {bytes : List Byte} {s : State}
    (h : s.cap.toNat - s.ocnt.toNat < bytes.length) :
    deliver val bytes s = takeError .capacity (bytes.take (s.cap.toNat - s.ocnt.toNat))
      { s with ocnt := s.cap, rlev := false } := if_neg (by omega)

/-- What a byte does when it is taken (ERR = 0, RLEV = 1): it opens an escape, it emits a token's
output, or it is an escape's second byte that names an entry not written. -/
theorem rleBeat_cases {b : Byte} {s : State} (he : s.err = 0) (hr : s.rlev = true) :
    (s.esc = false ∧ b = Config.sentinel ∧
      rleBeat b s = respond 0 [] { s.countRpos with esc := true }) ∨
    (s.esc = false ∧ b ≠ Config.sentinel ∧ rleBeat b s = deliver (fun _ => 0) [b] s.countRpos) ∨
    (s.esc = true ∧ b ≠ 0 ∧ 0 < runCount b ∧ s.dv.getLsbD (runIndex b).toNat = false ∧
      rleBeat b s = takeError .protocol [] { s.countRpos with esc := false }) ∨
    (s.esc = true ∧ (b = 0 ∨ runCount b = 0 ∨ s.dv.getLsbD (runIndex b).toNat = true) ∧
      rleBeat b s = deliver (fun _ => 0) (tokenOutput s.dict b) { s.countRpos with esc := false }) := by
  have h0 : rleBeat b s = if s.countRpos.esc then secondByte b { s.countRpos with esc := false }
      else if b = Config.sentinel then respond 0 [] { s.countRpos with esc := true }
      else deliver (fun _ => 0) [b] s.countRpos := by
    unfold rleBeat
    rw [whenReady_ready he]
    exact if_pos hr
  rw [h0, show s.countRpos.esc = s.esc from rfl]
  cases hs : s.esc with
  | false =>
    rw [if_neg (by simp)]
    by_cases hb : b = Config.sentinel
    · exact .inl ⟨rfl, hb, if_pos hb⟩
    · exact .inr (.inl ⟨rfl, hb, if_neg hb⟩)
  | true =>
    rw [if_pos rfl]
    by_cases hg : b ≠ 0x00 ∧ 0 < runCount b ∧ s.dv.getLsbD (runIndex b).toNat = false
    · exact .inr (.inr (.inl ⟨rfl, hg.1, hg.2.1, hg.2.2, if_pos hg⟩))
    · refine .inr (.inr (.inr ⟨rfl, ?_, if_neg hg⟩))
      by_contra hc
      simp only [not_or] at hc
      exact hg ⟨hc.1, Nat.pos_of_ne_zero hc.2.1, by simpa using hc.2.2⟩

/-! ### Headers, chains and frames -/

/-- A header read never leaves IN, wherever it is asked for (R120). -/
theorem headerAt_ok (magic : Magic) (draw f : Nat) (inp : Memory) (blen off : Nat) :
    ∃ bytes length, bytes = inp.readRange off (min length 38) ∧
      length = (if off ≤ blen then blen - off else 0) ∧
      headerAt magic draw f inp blen off =
        .ok { parseHeader magic draw f bytes length with
          off := BitVec.ofNat 64 off
          doff := fit64 (dataOffset off (parseHeader magic draw f bytes length)) draw
            (0x20 * f + 7) } := by
  refine ⟨_, _, rfl, rfl, ?_⟩
  have hr := memRead_inside (inp := inp) (blen := blen) (a := off)
    (n := min (if off ≤ blen then blen - off else 0) 38) (by split <;> omega)
  simp only [headerAt, hr]

theorem headerAt_answers (magic : Magic) (draw f : Nat) (inp : Memory) (blen off : Nat) :
    ∃ c, headerAt magic draw f inp blen off = .ok c := by
  obtain ⟨_, _, _, _, h⟩ := headerAt_ok magic draw f inp blen off
  exact ⟨_, h⟩

/-- What a walk that succeeds has established of its first frame, and of the rest (R221). -/
theorem chainFrom_ok {magic : Magic} {draw : Nat} {inp : Memory} {blen room f off : Nat}
    {frames : List StreamCfg} (h : chainFrom magic draw inp blen room f off = .ok frames) :
    ∃ room' c, room = room' + 1 ∧ headerAt magic draw f inp blen off = .ok c ∧ c.valid = true ∧
      dataOffset off c + c.stored.toNat ≤ blen ∧
      ((c.cont = false ∧ frames = [c]) ∨
        (c.cont = true ∧ c.flt = true ∧ room' ≠ 0 ∧
          alignUp (dataOffset off c + c.stored.toNat) < blen ∧
          ∃ cs, chainFrom magic draw inp blen room' (f + 1)
            (alignUp (dataOffset off c + c.stored.toNat)) = .ok cs ∧ frames = c :: cs)) := by
  cases room with
  | zero => simp [chainFrom] at h
  | succ room =>
    obtain ⟨c, hc⟩ := headerAt_answers magic draw f inp blen off
    simp only [chainFrom, hc] at h
    refine ⟨room, c, rfl, hc, ?_⟩
    split at h
    · simp at h
    split at h
    · simp at h
    split at h
    · next h1 h2 h3 =>
      exact ⟨by simpa using h1, by omega, .inl ⟨h3, by simpa using h.symm⟩⟩
    split at h
    · simp at h
    split at h
    · simp at h
    split at h
    · simp at h
    next h1 h2 h3 h4 h5 h6 =>
    refine ⟨by simpa using h1, by omega, .inr ⟨by simpa using h3, by simpa using h4, h5, by omega, ?_⟩⟩
    split at h
    · simp at h
    · next cs hcs => exact ⟨cs, hcs, by simpa using h.symm⟩

/-- A legal frame without CONT ends the walk (R218, R221). -/
theorem chainFrom_last {magic : Magic} {draw : Nat} {inp : Memory} {blen room f off : Nat}
    {c : StreamCfg} (h : headerAt magic draw f inp blen off = .ok c) (hv : c.valid = true)
    (hd : dataOffset off c + c.stored.toNat ≤ blen) (hc : c.cont = false) :
    chainFrom magic draw inp blen (room + 1) f off = .ok [c] := by
  simp only [chainFrom, h]
  rw [if_neg (by simp [hv]), if_neg (Nat.not_lt.mpr hd), if_pos hc]

/-- A legal frame with CONT leads to the walk from the next header (R213, R221). -/
theorem chainFrom_next {magic : Magic} {draw : Nat} {inp : Memory} {blen room f off : Nat}
    {c : StreamCfg} {cs : List StreamCfg} (h : headerAt magic draw f inp blen off = .ok c)
    (hv : c.valid = true) (hd : dataOffset off c + c.stored.toNat ≤ blen) (hc : c.cont = true)
    (hf : c.flt = true) (hr : room ≠ 0) (hn : alignUp (dataOffset off c + c.stored.toNat) < blen)
    (hcs : chainFrom magic draw inp blen room (f + 1)
      (alignUp (dataOffset off c + c.stored.toNat)) = .ok cs) :
    chainFrom magic draw inp blen (room + 1) f off = .ok (c :: cs) := by
  simp only [chainFrom, h]
  rw [if_neg (by simp [hv]), if_neg (Nat.not_lt.mpr hd), if_neg (by simp [hc]), if_neg (by simp [hf]),
    if_neg hr, if_neg (Nat.not_le.mpr hn), hcs]

/-- A chain that is accepted is a walk with consistent float flags (R219, R221). -/
theorem analyzeChain_ok {magic : Magic} {draw : Nat} {inp : Memory} {blen max : Nat}
    {frames : List StreamCfg} (h : analyzeChain magic draw inp blen max = .ok frames) :
    chainFrom magic draw inp blen max 0 0 = .ok frames ∧ flagsConsistent frames = true := by
  unfold analyzeChain at h
  split at h
  · simp at h
  · next fs hc =>
    split at h
    · next hf =>
      have : fs = frames := by simpa using h
      exact ⟨this ▸ hc, this ▸ hf⟩
    · simp [formatStop] at h

/-- A walk with consistent float flags is accepted (R219, R221). -/
theorem analyzeChain_accepts {magic : Magic} {draw : Nat} {inp : Memory} {blen max : Nat}
    {frames : List StreamCfg} (h : chainFrom magic draw inp blen max 0 0 = .ok frames)
    (hf : flagsConsistent frames = true) : analyzeChain magic draw inp blen max = .ok frames := by
  simp only [analyzeChain, h, if_pos hf]

/-- The walk stops for no reason but a bad chain (R210): no read leaves IN. -/
theorem chainFrom_error {magic : Magic} {draw : Nat} {inp : Memory} {blen : Nat} {room f off : Nat}
    {e : Stop} (h : chainFrom magic draw inp blen room f off = .error e) : e = .raised .format := by
  induction room generalizing f off with
  | zero => simpa [chainFrom, formatStop] using h.symm
  | succ room ih =>
    obtain ⟨c, hc⟩ := headerAt_answers magic draw f inp blen off
    simp only [chainFrom, hc] at h
    repeat' split at h
    all_goals first
      | exact (by simpa [formatStop] using h.symm)
      | (next he => simp only [Except.error.injEq] at h; subst h; exact ih he)

/-- Neither does the whole analysis. -/
theorem analyzeChain_error {magic : Magic} {draw : Nat} {inp : Memory} {blen max : Nat} {e : Stop}
    (h : analyzeChain magic draw inp blen max = .error e) : e = .raised .format := by
  unfold analyzeChain at h
  split at h
  · next he => exact (by simpa using h) ▸ chainFrom_error he
  · split at h
    · simp at h
    · simpa [formatStop] using h.symm

/-- The records after a scan: those found, and the old ones marked invalid (R222). -/
theorem scannedCfg_getElem (frames : List StreamCfg) (old : Vector StreamCfg 3) (f : Fin 3) :
    (scannedCfg frames old)[f] =
      frames.getD f.val { old[f] with valid := false, shortSum := false } := by
  simp [scannedCfg]

/-- What a frame that decodes has passed (R253, R254). -/
theorem decodeFrame_ok {te : TrailingEscape} {inp : Memory} {blen : Nat} {key : Word16}
    {c : StreamCfg} {d : List Byte} (h : decodeFrame te inp blen key c = .ok d) :
    ∃ raw, memRead inp blen c.doff.toNat c.stored.toNat = .ok raw ∧
      (c.cks = true → checksum raw = c.sum) ∧
      decompressStage te c (decryptStage c key raw) = .ok d ∧ d.length = c.orig.toNat := by
  unfold decodeFrame at h
  split at h
  · simp at h
  next raw hr =>
  split at h
  · simp at h
  next raw' hk =>
  split at h
  · simp at h
  next d' hd =>
  unfold checksumStage at hk
  split at hk
  · simp at hk
  next hg =>
  simp only [Except.ok.injEq] at hk
  subst hk
  unfold lengthStage at h
  split at h
  · next hl =>
    simp only [Except.ok.injEq] at h
    subst h
    exact ⟨raw, hr, fun hcks => by simpa [hcks] using hg, hd, hl⟩
  · simp at h

end Sys2Proof.Machine
end

