-- ==== Sys2Proof/Laws/Header.lean ====
section
/-! SUPPORT. What each step of the header parser does, said once for each way it can go. -/

namespace Sys2Proof.Machine

open Sys2Proof (Byte Word16 Word64)

/-! ### The fields -/

@[simp] theorem flagsOfByte_getLsbD (b : Byte) (i : Nat) :
    (flagsOfByte b).getLsbD i = (decide (2 ≤ i) && b.getLsbD i) := by
  by_cases hi : i < 8
  · simp only [flagsOfByte, BitVec.getLsbD_and]
    rw [Bool.and_comm]
    congr 1
    interval_cases i <;> decide
  · simp [BitVec.getLsbD_of_ge _ _ (Nat.le_of_not_lt hi)]

/-- The reserved bits of FLAGS are 0 (R37). -/
theorem flagsOfByte_reserved (b : Byte) : flagsOfByte b &&& 0x03 = 0 := by
  revert b; decide +kernel

/-- `n` bytes have a big-endian value below 256^n. -/
theorem bigEndian_lt (bytes : List Byte) : bigEndian bytes < 256 ^ bytes.length := by
  have h : ∀ v, bytes.foldl (fun v b => v * 256 + b.toNat) v < (v + 1) * 256 ^ bytes.length := by
    induction bytes with
    | nil => simp
    | cons b rest ih =>
      intro v
      refine Nat.lt_of_lt_of_le (ih _) ?_
      have h : v * 256 + b.toNat + 1 ≤ (v + 1) * 256 := by have := b.isLt; omega
      rw [List.length_cons, Nat.pow_succ', ← Nat.mul_assoc]
      exact Nat.mul_le_mul_right _ h
  simpa [bigEndian] using h 0

theorem headerWord64_toNat (bytes : List Byte) (a : Nat) :
    (headerWord64 bytes a).toNat = bigEndian ((bytes.drop a).take 8) := by
  have h := bigEndian_lt ((bytes.drop a).take 8)
  have hp : 256 ^ ((bytes.drop a).take 8).length ≤ 256 ^ 8 :=
    Nat.pow_le_pow_right (by omega) (by simp)
  rw [headerWord64, BitVec.toNat_ofNat, Nat.mod_eq_of_lt (by omega)]

theorem headerDict_getElem (bytes : List Byte) (i : Fin 16) :
    (headerDict bytes)[i] = bytes.getD (20 + i) 0 := by
  simp [headerDict, Config.fixedHeaderLen]

/-! ### The checksum step -/

theorem parseSum_none {bytes : List Byte} {length : Nat} {c : StreamCfg} (h : c.cks = false) :
    parseSum bytes length c = { c with valid := true } := by simp [parseSum, h]

theorem parseSum_short {bytes : List Byte} {length : Nat} {c : StreamCfg} (h : c.cks = true)
    (hl : length < c.hlen.toNat + 2) :
    parseSum bytes length c =
      { c with hlen := BitVec.ofNat 8 (c.hlen.toNat + 2), shortSum := true } := by
  simp [parseSum, h, Config.checksumLen, hl]

theorem parseSum_read {bytes : List Byte} {length : Nat} {c : StreamCfg} (h : c.cks = true)
    (hl : c.hlen.toNat + 2 ≤ length) :
    parseSum bytes length c =
      { c with valid := true, hlen := BitVec.ofNat 8 (c.hlen.toNat + 2),
               sum := BitVec.ofNat 16
                 (bigEndian [bytes.getD c.hlen.toNat 0, bytes.getD (c.hlen.toNat + 1) 0]) } := by
  simp [parseSum, h, Config.checksumLen, Nat.not_lt.mpr hl]

/-! ### The dictionary step -/

theorem parseDict_none {bytes : List Byte} {length : Nat} {c : StreamCfg} (h : c.comp = false) :
    parseDict bytes length c = parseSum bytes length c := by simp [parseDict, h]

theorem parseDict_short {bytes : List Byte} {length : Nat} {c : StreamCfg} (h : c.comp = true)
    (hl : length < 36) : parseDict bytes length c = c := by
  simp [parseDict, h, Config.fixedHeaderLen, Config.dictLen, hl]

theorem parseDict_read {bytes : List Byte} {length : Nat} {c : StreamCfg} (h : c.comp = true)
    (hl : 36 ≤ length) :
    parseDict bytes length c =
      parseSum bytes length { c with dict := headerDict bytes, hlen := 36 } := by
  simp [parseDict, h, Config.fixedHeaderLen, Config.dictLen, Nat.not_lt.mpr hl]

/-! ### The whole header -/

/-- The record of a header's fixed part, before the optional fields (R123). -/
def fixedPart (draw f : Nat) (bytes : List Byte) : StreamCfg :=
  { blankCfg draw f with
    flags := flagsOfByte (bytes.getD 3 0)
    orig := headerWord64 bytes 4
    stored := headerWord64 bytes 12
    hlen := 20 }

theorem parseHeader_short {magic : Magic} {draw f length : Nat} {bytes : List Byte}
    (h : length < 20) : parseHeader magic draw f bytes length = blankCfg draw f := by
  simp [parseHeader, Config.fixedHeaderLen, h]

theorem parseHeader_badMagic {magic : Magic} {draw f length : Nat} {bytes : List Byte}
    (h : bytes.getD 0 0 ≠ magic.m0 ∨ bytes.getD 1 0 ≠ magic.m1 ∨ bytes.getD 2 0 ≠ magic.m2) :
    parseHeader magic draw f bytes length = blankCfg draw f := by
  unfold parseHeader
  split
  · rfl
  · rfl

theorem parseHeader_long {magic : Magic} {draw f length : Nat} {bytes : List Byte}
    (hl : 20 ≤ length) (h0 : bytes.getD 0 0 = magic.m0) (h1 : bytes.getD 1 0 = magic.m1)
    (h2 : bytes.getD 2 0 = magic.m2) :
    parseHeader magic draw f bytes length = parseDict bytes length (fixedPart draw f bytes) := by
  have hl' : ¬ length < Config.fixedHeaderLen := Nat.not_lt.mpr hl
  have hm : ¬ (bytes.getD 0 0 ≠ magic.m0 ∨ bytes.getD 1 0 ≠ magic.m1 ∨ bytes.getD 2 0 ≠ magic.m2) := by
    rw [h0, h1, h2]
    simp
  exact (if_neg hl').trans (if_neg hm)

/-- What the checksum step answers of a record not yet valid. -/
theorem parseSum_facts (bytes : List Byte) {length : Nat} {c : StreamCfg} (hv : c.valid = false)
    (h36 : c.hlen.toNat ≤ 36) (hl : c.hlen.toNat ≤ length) :
    (parseSum bytes length c).flags = c.flags ∧
    ((parseSum bytes length c).valid = true →
      (parseSum bytes length c).hlen.toNat = c.hlen.toNat + 2 * c.cks.toNat ∧
      (parseSum bytes length c).hlen.toNat ≤ length) := by
  cases hk : c.cks with
  | false =>
    rw [parseSum_none hk]
    exact ⟨rfl, fun _ => ⟨by simp, hl⟩⟩
  | true =>
    by_cases hs : length < c.hlen.toNat + 2
    · rw [parseSum_short hk hs]
      exact ⟨rfl, fun h => by simp [hv] at h⟩
    · rw [parseSum_read hk (Nat.not_lt.mp hs)]
      have : (BitVec.ofNat 8 (c.hlen.toNat + 2)).toNat = c.hlen.toNat + 2 := by
        rw [BitVec.toNat_ofNat]; omega
      exact ⟨rfl, fun _ => ⟨this, by simp only [this]; omega⟩⟩

/-- A parsed record has the reserved bits of FLAGS clear; a valid one has the length its flags say, and
that length is there (R37, R127, R129). -/
theorem parseHeader_facts (magic : Magic) (draw f : Nat) (bytes : List Byte) (length : Nat) :
    let c := parseHeader magic draw f bytes length
    c.flags &&& 0x03 = 0 ∧ (c.valid = true →
      c.hlen.toNat = 20 + 16 * c.comp.toNat + 2 * c.cks.toNat ∧ c.hlen.toNat ≤ length) := by
  by_cases hl : length < 20
  · simp [parseHeader_short hl, blankCfg, StreamCfg.atReset]
  by_cases hm : bytes.getD 0 0 ≠ magic.m0 ∨ bytes.getD 1 0 ≠ magic.m1 ∨ bytes.getD 2 0 ≠ magic.m2
  · simp [parseHeader_badMagic hm, blankCfg, StreamCfg.atReset]
  simp only [ne_eq, not_or, not_not] at hm
  rw [parseHeader_long (Nat.not_lt.mp hl) hm.1 hm.2.1 hm.2.2]
  have hf : (fixedPart draw f bytes).flags &&& 0x03 = 0 := flagsOfByte_reserved _
  have hh : (fixedPart draw f bytes).hlen.toNat = 20 := rfl
  have hv : (fixedPart draw f bytes).valid = false := rfl
  generalize fixedPart draw f bytes = c at hf hh hv ⊢
  simp only [StreamCfg.comp, StreamCfg.cks]
  cases hc : c.comp with
  | false =>
    rw [parseDict_none hc]
    have h := parseSum_facts bytes hv (by omega) (by omega : c.hlen.toNat ≤ length)
    rw [h.1]
    simp only [StreamCfg.comp, StreamCfg.cks] at hc h
    exact ⟨hf, fun hval => ⟨by rw [(h.2 hval).1, hh, hc]; rfl, (h.2 hval).2⟩⟩
  | true =>
    by_cases hd : length < 36
    · rw [parseDict_short hc hd]
      exact ⟨hf, fun h => by simp [hv] at h⟩
    rw [parseDict_read hc (Nat.not_lt.mp hd)]
    have h := parseSum_facts (c := { c with dict := headerDict bytes, hlen := 36 }) bytes hv
      (Nat.le_refl 36) (Nat.not_lt.mp hd)
    rw [h.1]
    simp only [StreamCfg.comp, StreamCfg.cks] at hc h
    exact ⟨hf, fun hval => ⟨by rw [(h.2 hval).1, hc]; rfl, (h.2 hval).2⟩⟩

end Sys2Proof.Machine
end

