-- ==== Sys2Proof/Laws/Orchestrator.lean ====
section
/-! SUPPORT. What the orchestrator's operations do, said once: a decode ends in one of four ways. -/

namespace Sys2Proof.Machine

open Sys2Proof (Byte Word16 Word64)

/-! ### The streams -/

/-- One stream for each frame. -/
theorem decodeFrames_length {te : TrailingEscape} {inp : Memory} {blen : Nat} {key : Word16}
    {frames : List StreamCfg} {streams : List (List Byte)}
    (h : decodeFrames te inp blen key frames = .ok streams) : streams.length = frames.length := by
  induction frames generalizing streams with
  | nil =>
    simp only [decodeFrames, Except.ok.injEq] at h
    rw [← h]; rfl
  | cons c cs ih =>
    unfold decodeFrames at h
    split at h
    · simp at h
    split at h
    · simp at h
    next ds hds =>
    simp only [Except.ok.injEq] at h
    rw [← h, List.length_cons, List.length_cons, ih hds]

/-- A chain that is accepted has one, two or three frames (R219). -/
theorem analyzeChain_length {magic : Magic} {draw : Nat} {inp : Memory} {blen max : Nat}
    {frames : List StreamCfg} (h : analyzeChain magic draw inp blen max = .ok frames) :
    1 ≤ frames.length ∧ frames.length ≤ 3 := by
  have hf := (analyzeChain_ok h).2
  unfold flagsConsistent at hf
  split at hf <;> first | omega | simp at hf

/-- The first frame's stream, then those of the rest (R251). -/
theorem decodeFrames_cons {te : TrailingEscape} {inp : Memory} {blen : Nat} {key : Word16}
    {c : StreamCfg} {cs : List StreamCfg} {b : List Byte} {bs : List (List Byte)}
    (hc : decodeFrame te inp blen key c = .ok b) (hcs : decodeFrames te inp blen key cs = .ok bs) :
    decodeFrames te inp blen key (c :: cs) = .ok (b :: bs) := by
  simp only [decodeFrames, hc, hcs]

/-- The first frame that fails ends the work (R251). -/
theorem decodeFrames_error {te : TrailingEscape} {inp : Memory} {blen : Nat} {key : Word16}
    {pre post : List StreamCfg} {c : StreamCfg} {stop : Stop}
    (hp : ∀ d ∈ pre, ∃ b, decodeFrame te inp blen key d = .ok b)
    (hc : decodeFrame te inp blen key c = .error stop) :
    decodeFrames te inp blen key (pre ++ c :: post) = .error stop := by
  induction pre with
  | nil => simp only [List.nil_append, decodeFrames, hc]
  | cons d pre ih =>
    obtain ⟨b, hb⟩ := hp d List.mem_cons_self
    simp only [List.cons_append, decodeFrames, hb,
      ih fun d hd => hp d (List.mem_cons_of_mem _ hd)]

/-! The rejoiner by the number of streams (R256). -/

@[simp] theorem combine_one (b : List Byte) : combine [b] = .ok b := rfl
@[simp] theorem combine_two (b₀ b₁ : List Byte) : combine [b₀, b₁] = rejoin2 b₀ b₁ := rfl
@[simp] theorem combine_three (b₀ b₁ b₂ : List Byte) :
    combine [b₀, b₁, b₂] = rejoin3 b₀ b₁ b₂ := rfl

/-- The streams put into the buffers are the ones taken out of them. -/
theorem heldStreams_fill {streams : List (List Byte)} {frames : List StreamCfg} (s : State)
    (h1 : 1 ≤ frames.length) (h3 : frames.length ≤ 3) (hl : streams.length = frames.length) :
    (fillStreams streams (recordScan frames s)).heldStreams = streams := by
  have hn : (fillStreams streams (recordScan frames s)).nfr.toNat = streams.length := by
    show (BitVec.ofNat 2 frames.length).toNat = _
    rw [BitVec.toNat_ofNat, hl]
    omega
  unfold State.heldStreams
  rw [hn]
  match streams, hl with
  | [_], _ => rfl
  | [_, _], _ => rfl
  | [_, _, _], _ => rfl
  | [], h => rw [List.length_nil] at h; omega
  | _ :: _ :: _ :: _ :: _, h => simp only [List.length_cons] at h; omega

/-! ### The four ends of a decode

Each at any values of the parameters TRAILING_ESCAPE and MAX_STREAMS. -/

section Ends

variable {te : TrailingEscape} {max : Nat} {key : Word16} {s : State}

/-- A bad chain (R284, first). -/
theorem runDecode_chain_error {stop : Stop}
    (h : analyzeChain Config.magic s.free s.inp s.blen.toNat max = .error stop) :
    runDecode te max key s = .next (takeError .format [] (endDecode (recordNoScan s))) := by
  obtain rfl := analyzeChain_error h
  simp only [runDecode, h, failDecode]

/-- A frame that fails (R284, second). -/
theorem runDecode_frame_error {frames : List StreamCfg} {stop : Stop}
    (hc : analyzeChain Config.magic s.free s.inp s.blen.toNat max = .ok frames)
    (h : decodeFrames te s.inp s.blen.toNat key frames = .error stop) :
    runDecode te max key s = failDecode stop (recordScan frames s) := by
  have h' : decodeFrames te (recordScan frames s).inp (recordScan frames s).blen.toNat key frames =
      .error stop := h
  simp only [runDecode, hc, h']

/-- Streams that all decode go to the rejoiner, whose answer is the end (R256, R284). -/
theorem runDecode_streams {frames : List StreamCfg} {streams : List (List Byte)}
    (hc : analyzeChain Config.magic s.free s.inp s.blen.toNat max = .ok frames)
    (hf : decodeFrames te s.inp s.blen.toNat key frames = .ok streams) :
    runDecode te max key s =
      match combine streams with
      | .error stop => failDecode stop (fillStreams streams (recordScan frames s))
      | .ok bytes => .next (finishDecode bytes (fillStreams streams (recordScan frames s))) := by
  have hf' : decodeFrames te (recordScan frames s).inp (recordScan frames s).blen.toNat key frames =
      .ok streams := hf
  have hl := analyzeChain_length hc
  have hs := heldStreams_fill s hl.1 hl.2 (decodeFrames_length hf)
  cases h : combine streams <;> simp only [runDecode, hc, hf', hs, h]

/-- Streams that do not fit together (R284, third). -/
theorem runDecode_rejoin_error {frames : List StreamCfg} {streams : List (List Byte)} {stop : Stop}
    (hc : analyzeChain Config.magic s.free s.inp s.blen.toNat max = .ok frames)
    (hf : decodeFrames te s.inp s.blen.toNat key frames = .ok streams)
    (h : combine streams = .error stop) :
    runDecode te max key s = failDecode stop (fillStreams streams (recordScan frames s)) := by
  simp only [runDecode_streams hc hf, h]

/-- Success (R257, R258). -/
theorem runDecode_ok {frames : List StreamCfg} {streams : List (List Byte)} {bytes : List Byte}
    (hc : analyzeChain Config.magic s.free s.inp s.blen.toNat max = .ok frames)
    (hf : decodeFrames te s.inp s.blen.toNat key frames = .ok streams)
    (h : combine streams = .ok bytes) :
    runDecode te max key s =
      .next (finishDecode bytes (fillStreams streams (recordScan frames s))) := by
  simp only [runDecode_streams hc hf, h]

/-- DECODE with ERR = 0 is the work on the state with the registers cleared. -/
theorem decodeWith_ready (h : s.err = 0) :
    decodeWith te max key s = runDecode te max key (beginDecode s) := if_pos h

/-- DECODE in the error state (R281). -/
theorem decodeWith_refused (h : s.err ≠ 0) : decodeWith te max key s = .next (refuse s) := if_neg h

end Ends

/-- MAX_STREAMS is one of its legal values (R9). -/
theorem maxStreams_legal : 1 ≤ Config.maxStreams ∧ Config.maxStreams ≤ 3 :=
  ⟨Nat.le_add_left .., Config.streamsPastFirst.isLt⟩

end Sys2Proof.Machine
end

