-- ==== Sys2Proof/Laws/PerInstr.lean ====
section
/-! SUPPORT. Statements made for every instruction: the family OpcodeByte, one lemma for each
constructor. -/

namespace Sys2Proof.Laws

/-- The opcode byte of each command, copied from the table of 30_encoding.md R97. -/
def opcodeTable : List (String × Nat) :=
  [("NOP", 0x00), ("RDREG", 0x01), ("RESET", 0x02), ("KS.LOAD", 0x10), ("KS.STEP", 0x11),
    ("DEC.START", 0x20), ("DEC.BYTE", 0x21), ("CS.CLEAR", 0x30), ("CS.BYTE", 0x31),
    ("CS.VERIFY", 0x32), ("RLE.DICT", 0x40), ("RLE.START", 0x41), ("RLE.BYTE", 0x42),
    ("RLE.END", 0x43), ("FJ2.BEAT", 0x50), ("FJ3.BEAT", 0x51), ("HDR.PARSE.0", 0x60),
    ("HDR.PARSE.1", 0x61), ("HDR.PARSE.2", 0x62), ("CHAIN.SCAN", 0x64), ("DECODE", 0x68)]

/-- The encoding of an instruction carries the opcode byte R97 gives its mnemonic; that of a token is one
byte other than the sentinel (R94), or the sentinel and one byte (R95, R96). -/
def OpcodeByte.Statement (i : Instr) : Prop :=
  WellFormed i →
    match encode i with
    | .command w => (mnemonic i, (opField w).toNat) ∈ opcodeTable
    | .stream [b] => b ≠ Config.sentinel
    | .stream [b, _] => b = Config.sentinel
    | .stream _ => False

theorem opcode_of_command {i : Instr} (name : String) {op : BitVec 8} {arg : Word64}
    (he : encode i = .command (commandWord op arg)) (hn : mnemonic i = name)
    (hm : (name, op.toNat) ∈ opcodeTable) : OpcodeByte.Statement i := by
  intro _
  simp only [he, opField_commandWord, hn]
  exact hm

theorem OpcodeByte.nop : OpcodeByte.Statement .nop :=
  opcode_of_command "NOP" rfl rfl (by decide)
theorem OpcodeByte.rdreg (r : BitVec 8) :
    OpcodeByte.Statement (.rdreg r) :=
    opcode_of_command "RDREG" rfl rfl (by decide)
theorem OpcodeByte.reset : OpcodeByte.Statement .reset :=
  opcode_of_command "RESET" rfl rfl (by decide)
theorem OpcodeByte.ksLoad (k : Word16) :
    OpcodeByte.Statement (.ksLoad k) :=
    opcode_of_command "KS.LOAD" rfl rfl (by decide)
theorem OpcodeByte.ksStep : OpcodeByte.Statement .ksStep :=
  opcode_of_command "KS.STEP" rfl rfl (by decide)
theorem OpcodeByte.decStart (key : Word16) :
    OpcodeByte.Statement (.decStart key) :=
    opcode_of_command "DEC.START" rfl rfl (by decide)
theorem OpcodeByte.decByte (b : Byte) :
    OpcodeByte.Statement (.decByte b) :=
    opcode_of_command "DEC.BYTE" rfl rfl (by decide)
theorem OpcodeByte.csClear : OpcodeByte.Statement .csClear :=
  opcode_of_command "CS.CLEAR" rfl rfl (by decide)
theorem OpcodeByte.csByte (b : Byte) :
    OpcodeByte.Statement (.csByte b) :=
    opcode_of_command "CS.BYTE" rfl rfl (by decide)
theorem OpcodeByte.csVerify (x : Word16) :
    OpcodeByte.Statement (.csVerify x) :=
    opcode_of_command "CS.VERIFY" rfl rfl (by decide)
theorem OpcodeByte.rleDict (i : BitVec 4) (v : Byte) :
    OpcodeByte.Statement (.rleDict i v) :=
    opcode_of_command "RLE.DICT" rfl rfl (by decide)
theorem OpcodeByte.rleStart (cap : Word64) :
    OpcodeByte.Statement (.rleStart cap) :=
    opcode_of_command "RLE.START" rfl rfl (by decide)
theorem OpcodeByte.rleByte (b : Byte) :
    OpcodeByte.Statement (.rleByte b) :=
    opcode_of_command "RLE.BYTE" rfl rfl (by decide)
theorem OpcodeByte.rleEnd : OpcodeByte.Statement .rleEnd :=
  opcode_of_command "RLE.END" rfl rfl (by decide)
theorem OpcodeByte.fj2Beat (b0 b1 b2 e : Byte) :
    OpcodeByte.Statement (.fj2Beat b0 b1 b2 e) :=
    opcode_of_command "FJ2.BEAT" rfl rfl (by decide)
theorem OpcodeByte.fj3Beat (f0 f1 f2 e sgn : Byte) :
    OpcodeByte.Statement (.fj3Beat f0 f1 f2 e sgn) :=
    opcode_of_command "FJ3.BEAT" rfl rfl (by decide)
theorem OpcodeByte.hdrParse0 (off : Word64) :
    OpcodeByte.Statement (.hdrParse0 off) :=
    opcode_of_command "HDR.PARSE.0" rfl rfl (by decide)
theorem OpcodeByte.hdrParse1 (off : Word64) :
    OpcodeByte.Statement (.hdrParse1 off) :=
    opcode_of_command "HDR.PARSE.1" rfl rfl (by decide)
theorem OpcodeByte.hdrParse2 (off : Word64) :
    OpcodeByte.Statement (.hdrParse2 off) :=
    opcode_of_command "HDR.PARSE.2" rfl rfl (by decide)
theorem OpcodeByte.chainScan (m : Byte) :
    OpcodeByte.Statement (.chainScan m) :=
    opcode_of_command "CHAIN.SCAN" rfl rfl (by decide)
theorem OpcodeByte.decode (key : Word16) :
    OpcodeByte.Statement (.decode key) :=
    opcode_of_command "DECODE" rfl rfl (by decide)
theorem OpcodeByte.lit (b : Byte) : OpcodeByte.Statement (.lit b) := by
  intro h
  show b ≠ Config.sentinel
  simpa [WellFormed, Instr.wf] using h
theorem OpcodeByte.escLit : OpcodeByte.Statement .escLit := fun _ => rfl
theorem OpcodeByte.escRun (count index : BitVec 4) : OpcodeByte.Statement (.escRun count index) :=
  fun _ => rfl

end Sys2Proof.Laws
end

