-- ==== Sys2Proof/Tests/Slice0.lean ====
section
/-! SUPPORT. Tests of the model. Words are written out from 30_encoding.md R94 to R98 and from the
programs of 95_test_vectors.md; expected results are the vectors' own, named in each comment. -/

namespace Sys2Proof.Tests

open Sys2Proof Sys2Proof.Machine

/-! ### Well-formedness refuses what no encoding expresses -/

theorem test_wf_refuses_lit_sentinel : ¬ WellFormed (.lit 0x07) := by decide
theorem test_wf_refuses_run_zero : ¬ WellFormed (.escRun 0 0) := by decide
theorem test_wf_allows_zero_count : WellFormed (.escRun 0 7) := by decide

/-! ### Decoding: one word for each constructor, from R97 and R98 (programs P1 to P8) -/

/-- The instruction of an opcode byte and an operand field written in hexadecimal (R102). -/
def word (op arg : Nat) : Option Instr := decodeTableWord 72 (op * 2 ^ 64 + arg)

theorem test_word_nop : word 0x00 0 = some .nop := by decide
theorem test_word_rdreg : word 0x01 0x42 = some (.rdreg 0x42) := by decide
theorem test_word_reset : word 0x02 0 = some .reset := by decide
theorem test_word_ksLoad : word 0x10 0x1337 = some (.ksLoad 0x1337) := by decide
theorem test_word_ksStep : word 0x11 0 = some .ksStep := by decide
theorem test_word_decStart : word 0x20 0x1337 = some (.decStart 0x1337) := by decide
theorem test_word_decByte : word 0x21 0x48 = some (.decByte 0x48) := by decide
theorem test_word_csClear : word 0x30 0 = some .csClear := by decide
theorem test_word_csByte : word 0x31 0x9C = some (.csByte 0x9C) := by decide
theorem test_word_csVerify : word 0x32 0x02AE = some (.csVerify 0x02AE) := by decide
theorem test_word_rleDict : word 0x40 0x358 = some (.rleDict 3 0x58) := by decide
theorem test_word_rleStart : word 0x41 0x40 = some (.rleStart 64) := by decide
theorem test_word_rleByte : word 0x42 0xF3 = some (.rleByte 0xF3) := by decide
theorem test_word_rleEnd : word 0x43 0 = some .rleEnd := by decide
theorem test_word_fj2Beat : word 0x50 0x80493FDB = some (.fj2Beat 0xDB 0x3F 0x49 0x80) := by decide
theorem test_word_fj3Beat :
    word 0x51 0x0180C90FDB = some (.fj3Beat 0xDB 0x0F 0xC9 0x80 0x01) := by decide
theorem test_word_hdrParse0 : word 0x60 0 = some (.hdrParse0 0) := by decide
theorem test_word_hdrParse1 : word 0x61 0x2000 = some (.hdrParse1 8192) := by decide
theorem test_word_hdrParse2 :
    word 0x62 0xFEDCBA9876543210 = some (.hdrParse2 0xFEDCBA9876543210) := by decide
theorem test_word_chainScan : word 0x64 3 = some (.chainScan 3) := by decide
theorem test_word_decode : word 0x68 0x1338 = some (.decode 0x1338) := by decide
theorem test_word_lit : decodeTableWord 8 0x41 = some (.lit 0x41) := by decide
theorem test_word_escLit : decodeTableWord 16 0x0700 = some .escLit := by decide
theorem test_word_escRun : decodeTableWord 16 0x0723 = some (.escRun 2 3) := by decide
/-- P7 b1. -/
theorem test_word_unassigned : word 0x05 0 = none := by decide
/-- P7 c1. -/
theorem test_word_reserved : word 0x00 1 = none := by decide
/-- R98: `i = arg[11:8]`, so bit 12 is reserved. -/
theorem test_word_dict_reserved : word 0x40 0x1358 = none := by decide
/-- R102's own example. -/
theorem test_text_ksLoad :
    encode (.ksLoad 0x1337) = .command (commandWord 0x10 0x1337) ∧
      String.ofList (commandText (commandWord 0x10 0x1337)) = "10 0000000000001337" := by decide

/-! ### Function rules on the spec's vectors -/

/-- V1: fifteen reference states. -/
theorem test_lfsr_reference :
    (List.range 15).map (fun k => lfsrIter (k + 1) 0x1337) =
      [0x099B, 0x84CD, 0x4266, 0x2133, 0x1099, 0x884C, 0xC426, 0x6213, 0xB109, 0x5884, 0x2C42,
        0x1621, 0x0B10, 0x8588, 0x42C4] := by decide
/-- V11. -/
theorem test_lfsr_taps :
    [0xFFFF, 0x0001, 0x0040, 0x0200, 0x2000, 0x8000, 0x2241].map lfsrStep =
      [0x7FFF, 0x8000, 0x8020, 0x8100, 0x9000, 0x4000, 0x1120] := by decide
/-- V12 row 4. -/
theorem test_decrypt_hello :
    decrypt [0x48, 0x65, 0x6C, 0x6C, 0x6F] 0x1337 = [0xD3, 0x6C, 0xA1, 0xE8, 0x09] := by decide
/-- V12, key FFFF. -/
theorem test_decrypt_ffff : decrypt [0x12, 0x34, 0x56, 0x78] 0xFFFF = [0xED, 0x4B, 0xA9, 0x47] := by
  decide
/-- V13: 258 bytes FF wrap. -/
theorem test_checksum_wraps : checksum (List.replicate 258 0xFF) = 0x00FE := by
  decide +kernel
/-- V14's dictionary. -/
def dict14 : Vector Byte 16 :=
  #v[0x10, 0x11, 0x12, 0x58, 0x14, 0x15, 0x16, 0x17, 0x18, 0x19, 0x1A, 0x1B, 0x1C, 0x1D, 0x1E, 0x1F]
/-- V14: V5, an escape that is no nested escape, a cut run, a full output, a lone sentinel. -/
theorem test_decompress_vectors :
    decompress .error [0x41, 0x07, 0x23, 0x42] dict14 64 = ([0x41, 0x58, 0x58, 0x42], none) ∧
    decompress .error [0x07, 0x2F, 0x00, 0x07, 0x00] dict14 64 = ([0x1F, 0x1F, 0x00, 0x07], none) ∧
    decompress .error [0x07, 0x07] dict14 64 = ([], none) ∧
    decompress .error [0x07, 0xF3] dict14 10 = (List.replicate 10 0x58, some .capacity) ∧
    decompress .error [0x41, 0x07, 0x03] dict14 1 = ([0x41], none) ∧
    decompress .error [0x41, 0x07] dict14 64 = ([0x41], some .truncatedEscape) ∧
    decompress .literal [0x41, 0x07] dict14 64 = ([0x41, 0x07], none) := by decide
/-- V16 and V17. -/
theorem test_rejoin_vectors :
    (rejoin2 [0, 0, 0, 0, 0, 0x80] [0x7F, 0x80]).toOption
      = some [0, 0, 0x80, 0x3F, 0, 0, 0, 0xC0] ∧
    (rejoin2 [0, 0, 0, 0] [0x7F]).toOption = none ∧
    (rejoin3 [0xDB, 0x0F, 0x49, 0, 0, 0] [0x80, 0x7F] [0x00, 0x80]).toOption
      = some [0xDB, 0x0F, 0x49, 0x40, 0, 0, 0x80, 0xBF] := by decide

/-- A magic for the function rules, which take it as an argument. -/
def magic : Magic := { m0 := 0xA1, m1 := 0xB2, m2 := 0xC3 }

/-- V6: `VALID` and `HLEN` for a flags byte and a length. -/
def parsed (flags : Byte) (length : Nat) : Bool × BitVec 8 :=
  let c := parseHeader magic 0 0 ([0xA1, 0xB2, 0xC3, flags] ++ List.replicate 34 0x55) length
  (c.valid, c.hlen)

theorem test_header_lengths :
    [parsed 0xA0 19, parsed 0xA0 35, parsed 0xA0 37, parsed 0xA0 38, parsed 0x20 21, parsed 0x20 22,
      parsed 0x00 20, parsed 0x80 36] =
    [(false, 0), (false, 20), (false, 38), (true, 38), (false, 22), (true, 22), (true, 20),
      (true, 36)] := by decide

/-- V7: one wrong magic byte. -/
theorem test_header_magic :
    (parseHeader magic 0 0 ([0xA1, 0xB2, 0xC2] ++ List.replicate 20 0) 23).valid = false := by decide

/-- The container of program P4: header, padding left as 00 (U13), data. -/
def p4 : Memory :=
  Memory.writeBytes (Memory.writeBytes [] 0
    ([0xA1, 0xB2, 0xC3, 0xE0, 0, 0, 0, 0, 0, 0, 0, 0x0C, 0, 0, 0, 0, 0, 0, 0, 6, 0x41]
      ++ List.replicate 15 0 ++ [0x02, 0xAE])) 4096 [0x9C, 0x99, 0x8F, 0x83, 0x66, 0x01]

/-- V18, P4 rows 1, 2 and 3. -/
theorem test_decode_p4 :
    (decode magic .error 3 0 p4 4102 0x1337).toOption =
      some [0x41, 0x41, 0x41, 0x41, 0x41, 0x41, 0x41, 0x41, 0x41, 0x42, 0x07, 0x43] := by decide
theorem test_decode_p4_wrong_key :
    (match decode magic .error 3 0 p4 4102 0x1338 with
      | .error e => some e
      | .ok _ => none) = some (.raised .sizeMismatch) := by decide
theorem test_decode_p4_corrupt :
    (match decode magic .error 3 0 (p4.write 4096 0x9D) 4102 0x1337 with
      | .error e => some e
      | .ok _ => none) = some (.raised .integrity) := by decide

/-- The container of program P5, its flags bytes as arguments (V15). -/
def p5 (flags₀ flags₁ : Byte) : Memory :=
  let m := Memory.writeBytes [] 0
    [0xA1, 0xB2, 0xC3, flags₀, 0, 0, 0, 0, 0, 0, 0, 6, 0, 0, 0, 0, 0, 0, 0, 6]
  let m := m.writeBytes 4096 [0, 0, 0, 0, 0, 0x80]
  let m := m.writeBytes 8192
    [0xA1, 0xB2, 0xC3, flags₁, 0, 0, 0, 0, 0, 0, 0, 2, 0, 0, 0, 0, 0, 0, 0, 2]
  m.writeBytes 12288 [0x7F, 0x80]

/-- `(OFF, DOFF)` of each frame of a chain, or none for FormatError. -/
def chain (flags₀ flags₁ : Byte) (blen max : Nat) : Option (List (Nat × Nat)) :=
  (analyzeChain magic 0 (p5 flags₀ flags₁) blen max).toOption.map
    (List.map fun c => (c.off.toNat, c.doff.toNat))

/-- V15. -/
theorem test_chain_p5 :
    chain 0x18 0x08 12290 3 = some [(0, 4096), (8192, 12288)] ∧
    chain 0x18 0x08 12290 1 = none ∧ chain 0x10 0x08 12290 3 = none ∧
    chain 0x18 0x00 12290 3 = none ∧ chain 0x18 0x0C 12290 3 = none ∧
    chain 0x1C 0x0C 12290 3 = none ∧ chain 0x18 0x18 12290 3 = none ∧
    chain 0x18 0x08 12289 3 = none := by decide
/-- V18, P5. -/
theorem test_decode_p5 :
    (decode magic .error 3 0 (p5 0x18 0x08) 12290 0).toOption =
      some [0, 0, 0x80, 0x3F, 0, 0, 0, 0xC0] := by decide

/-! ### Commands, one step each, on the states of programs P1 to P8 -/

/-- The state of a next outcome. -/
def after (o : Host.Outcome State Fault Refusal) : State :=
  match o with
  | .next t => t
  | .fault _ | .refused _ => State.reset

/-- A response written as in 95_test_vectors.md: err, val, data. -/
def resp (o : Host.Outcome State Fault Refusal) : Nat × Nat × List Byte :=
  let r := (after o).resp
  (r.err.toNat, r.val.toNat, r.data)

/-- P7 c1: a reserved bit set; nothing but ERR changes. -/
theorem test_step_illegal :
    (after (step (State.reset.withFetchWord 72 1))).err = 7 := by decide
/-- R281: a refused command while ERR = 2. -/
theorem test_nop_in_error : resp (exec .nop { State.reset with err := 2 }) = (2, 0, []) := by decide
/-- P3 end state: STAT = 0003. -/
theorem test_rdreg_stat :
    resp (exec (.rdreg 0x02) { State.reset with ks := 0x4266, ksv := true, dpos := 5 })
      = (0, 0x0003, []) := by decide
/-- P7 d1: number 0x08 is unassigned. -/
theorem test_rdreg_unassigned : resp (exec (.rdreg 0x08) State.reset) = (7, 0, []) := by decide
/-- P7 a4. -/
theorem test_reset_clears_err :
    (after (exec .reset { State.reset with err := 7, blen := 9 })).err = 0 ∧
    (after (exec .reset { State.reset with err := 7, blen := 9 })).blen = 9 := by decide
/-- P1 steps 1 and 2. -/
theorem test_ksLoad : (after (exec (.ksLoad 0x1337) State.reset)).ks = 0x1337 := by decide
theorem test_ksStep :
    resp (exec .ksStep { State.reset with ks := 0x1337, ksv := true }) = (0, 0x099B, []) := by decide
/-- P7 a1. -/
theorem test_ksStep_unloaded : resp (exec .ksStep State.reset) = (7, 0, []) := by decide
/-- P3 steps 1, 2 and 3. -/
theorem test_decStart : (after (exec (.decStart 0x1337) State.reset)).ks = 0x099B := by decide
theorem test_decByte_first :
    resp (exec (.decByte 0x48) { State.reset with ks := 0x099B, ksv := true }) = (0, 0, [0xD3]) := by
  decide
theorem test_decByte_second :
    let o := exec (.decByte 0x65) { State.reset with ks := 0x099B, ksv := true, dpos := 1 }
    resp o = (0, 0, [0x6C]) ∧ (after o).ks = 0x84CD ∧ (after o).dpos = 2 := by decide
/-- P2. -/
theorem test_csClear : (after (exec .csClear { State.reset with cs := 5 })).cs = 0 := by decide
theorem test_csByte_wraps :
    (after (exec (.csByte 0xFF) { State.reset with cs := 0xFF80, csv := true })).cs = 0x007F := by
  decide
theorem test_csVerify :
    resp (exec (.csVerify 8) { State.reset with cs := 8, csv := true }) = (0, 0, []) ∧
    resp (exec (.csVerify 9) { State.reset with cs := 8, csv := true }) = (2, 0, []) := by decide
/-- P3b steps 1 and 9. -/
theorem test_rleDict :
    let t := after (exec (.rleDict 3 0x58) State.reset)
    t.dict[3] = 0x58 ∧ t.dv = 0x0008 := by decide
/-- P7 f4. -/
theorem test_rleDict_busy :
    resp (exec (.rleDict 0 0) { State.reset with rlev := true }) = (7, 0, []) := by decide
theorem test_rleStart :
    let t := after (exec (.rleStart 64) { State.reset with ocnt := 9, esc := true })
    t.cap = 64 ∧ t.ocnt = 0 ∧ t.esc = false ∧ t.rlev = true := by decide

/-- The state before the second byte of an escape, DICT[3] = 58 (P3b, P3c). -/
def escaped (cap : Word64) : State :=
  { State.reset with
    dict := State.reset.dict.set 3 0x58, dv := 0x0008, cap := cap, rlev := true, esc := true, rpos := 1 }

/-- P3b step 5. -/
theorem test_rleByte_run : resp (exec (.rleByte 0x23) (escaped 64)) = (0, 0, [0x58, 0x58]) := by decide
/-- P3c step 4 and end state. -/
theorem test_rleByte_capacity :
    let o := exec (.rleByte 0xF3) (escaped 10)
    resp o = (4, 0, List.replicate 10 0x58) ∧ (after o).ocnt = 10 ∧ (after o).rlev = false ∧
      (after o).rpos = 2 := by decide
/-- P3b step 7. -/
theorem test_rleEnd :
    resp (exec .rleEnd { State.reset with rlev := true, ocnt := 4 }) = (0, 4, []) := by decide
/-- P7 g4, at the default `error`; and 93 U3 at `literal`. -/
theorem test_rleEnd_pending :
    let s : State := { escaped 64 with ocnt := 1 }
    let t := rleFinish .error s
    (t.resp.err, t.resp.val, t.resp.data) = (6, 0, []) ∧ t.ocnt = 1 ∧ t.rlev = false ∧ t.esc = false ∧
    let u := rleFinish .literal s
    (u.resp.err, u.resp.val, u.resp.data) = (0, 2, [0x07]) ∧ u.esc = false := by decide
/-- P5's beat, V9. -/
theorem test_fj2Beat : resp (exec (.fj2Beat 0 0 0 0x7F) State.reset) = (0, 0, [0, 0, 0x80, 0x3F]) := by
  decide
/-- P6's beat: bit 7 of f2 and bits 6:0 of s are ignored. -/
theorem test_fj3Beat :
    resp (exec (.fj3Beat 0xDB 0x0F 0xC9 0x80 0x01) State.reset) = (0, 0, [0xDB, 0x0F, 0x49, 0x40]) := by
  decide
/-- R130: an offset at or past BLEN gives VALID = 0 and no error. -/
theorem test_hdrParse0_empty : resp (exec (.hdrParse0 0) State.reset) = (0, 0, []) := by decide
theorem test_hdrParse1_outv :
    (after (exec (.hdrParse1 5) { State.reset with outv := true })).outv = false := by decide
theorem test_hdrParse2_free : (after (exec (.hdrParse2 5) State.reset)).free = 1 := by decide
/-- R222: `m` outside 1 to 3; and an empty IN. -/
theorem test_chainScan_bounds :
    resp (exec (.chainScan 4) State.reset) = (7, 0, []) ∧
    resp (exec (.chainScan 0) State.reset) = (7, 0, []) ∧
    resp (exec (.chainScan 3) State.reset) = (1, 0, []) := by decide
/-- P4 (d)'s kind: no header, FormatError; the datapath is reset. -/
theorem test_decode_empty :
    let o := exec (.decode 0x1337) { State.reset with ksv := true, olen := 3 }
    resp o = (1, 0, []) ∧ (after o).ksv = false ∧ (after o).olen = 0 := by decide
/-- P3b steps 3, 4 and 5 as tokens. -/
theorem test_lit :
    let o := exec (.lit 0x41) { State.reset with rlev := true, cap := 64 }
    resp o = (0, 0, [0x41]) ∧ (after o).rpos = 1 := by decide
theorem test_escLit :
    let o := exec .escLit { State.reset with rlev := true, cap := 64 }
    resp o = (0, 0, [0x07]) ∧ (after o).rpos = 2 := by decide
theorem test_escRun :
    let o := exec (.escRun 2 3) { escaped 64 with esc := false, rpos := 0 }
    resp o = (0, 0, [0x58, 0x58]) ∧ (after o).ocnt = 2 ∧ (after o).rpos = 2 := by decide
/-- A token placed where step fetches. -/
theorem test_step_token :
    (after (step (({ State.reset with rlev := true, cap := 64 } : State).withFetchWord 8 0x41))).ocnt
      = 1 := by decide

/-! ### Witnesses: states and operands that meet the hypotheses of the statements in
Certificates/Slice0/Obligations.lean, one for each clause -/

/-- ERR = 0 is `State.reset`'s; this one is in the error state (R281). -/
def broken : State := { State.reset with err := 2 }
/-- Every valid bit set, DPOS odd. -/
def full : State :=
  { State.reset with
    ksv := true, csv := true, cs := 5, dpos := 1, dv := 0xFFFF, rlev := true, cap := 2
    cfg := (State.reset.cfg.set 2 { StreamCfg.atReset with valid := true }).set 1
      { StreamCfg.atReset with hlen := 38, shortSum := true } }
/-- R126 and V6: HLEN of a record whose checksum field is short. -/
theorem test_rdreg_short_hlen : resp (exec (.rdreg 0x61) full) = (0, 38, []) := by decide
/-- In the middle of an escape; one byte emitted of two allowed; entry 0 alone written. -/
def pending : State :=
  { State.reset with rlev := true, esc := true, ocnt := 1, cap := 2, dv := 1, rpos := 0xFFFFFFFFFFFFFFFE }
/-- At a token boundary with room for 15 bytes. -/
def roomy : State := { State.reset with rlev := true, cap := 15, dv := 0x8000 }
/-- At a token boundary with no room. -/
def crammed : State := { roomy with ocnt := 15 }

theorem witness_DecodeOfEncode :
    WellFormed .nop ∧ WellFormed (.lit 0x06) ∧ WellFormed (.lit 0xFF) ∧ WellFormed (.escRun 0 1) ∧
      WellFormed (.escRun 1 0) ∧ WellFormed (.escRun 15 15) := by decide
theorem witness_EncodeOfDecode :
    decodeRequest (.stream [0x07, 0x0F]) = .ok (.escRun 0 15) ∧
      decodeRequest (.command 0x400000000000000F58) = .ok (.rleDict 15 0x58) := ⟨rfl, rfl⟩
theorem witness_IllegalWordsAreRejected :
    (∀ op ∈ [(0x03 : BitVec 8), 0x0F, 0x12, 0x44, 0x63, 0x65, 0x67, 0x69, 0xFF],
      op.toNat ∉ [0x00, 0x01, 0x02, 0x10, 0x11, 0x20, 0x21, 0x30, 0x31, 0x32, 0x40, 0x41, 0x42, 0x43,
        0x50, 0x51, 0x60, 0x61, 0x62, 0x64, 0x68]) ∧
    ∀ n ∈ [0, 8, 12, 16, 32, 40], (1#64 <<< n).toNat / 2 ^ n ≠ 0 := by decide
theorem witness_StepRunsDecodedInstruction :
    decodeCommand 0x110000000000000000 = .ok .ksStep ∧
    decodeToken [0x07, 0x00] = .ok (.escLit, []) ∧
    decodeToken [0x41, 0x07] = .ok (.lit 0x41, [0x07]) := ⟨rfl, rfl, rfl⟩
theorem witness_StepWithoutInstruction :
    State.reset.port = [] ∧ decodeCommand 0x050000000000000000 = .error .unassignedOpcode ∧
    decodeCommand 1 = .error .reservedBits ∧ broken.err ≠ 0 := ⟨rfl, rfl, rfl, by decide⟩
theorem witness_NopMeaning :
    (1 : Word64) ≠ 0 ∧ (broken.issue (.command (commandWord 0x00 1))).err ≠ 0 := by decide
theorem witness_RdregAnswersRegisters :
    full.ksv = true ∧ full.csv = true ∧ full.dv.getLsbD 0 = true ∧ full.dv.getLsbD 15 = true ∧
      full.cfg[2].valid = true ∧ full.cfg[1].shortSum = true := by decide
theorem witness_RdregOfUnspecified :
    let s := State.reset
    s.ksv = false ∧ s.csv = false ∧ s.dv.getLsbD 0 = false ∧ s.dv.getLsbD 15 = false ∧
      s.cfg[0].valid = false ∧ s.cfg[2].shortSum = false := by decide
theorem witness_RdregOfUnassigned :
    ∀ r ∈ [(0x08 : BitVec 8), 0x0D, 0x0F, 0x20, 0x3F, 0x48, 0x4F, 0x88, 0x8F, 0xA0, 0xFF],
      r.toNat = 0x08 ∨ (0x0D ≤ r.toNat ∧ r.toNat < 0x10) ∨ (0x20 ≤ r.toNat ∧ r.toNat < 0x40) ∨
      0xA0 ≤ r.toNat ∨
      (0x40 ≤ r.toNat ∧ r.toNat < 0xA0 ∧ 8 ≤ r.toNat % 0x20 ∧ r.toNat % 0x20 < 0x10) := by decide
theorem witness_ErrorStateRefuses :
    broken.err ≠ 0 ∧ Instr.ksStep ≠ .nop ∧ Instr.ksStep ≠ .reset ∧ ∀ r, Instr.ksStep ≠ .rdreg r :=
  ⟨by decide, nofun, nofun, nofun⟩
/-- KsLoad, DecStart, CsClear, RleStart, Fj2Beat, Fj3Beat, CsSum: ERR = 0 or not. -/
theorem witness_ready_and_refused : State.reset.err = 0 ∧ broken.err ≠ 0 := by decide
theorem witness_KsStepMeaning :
    full.err = 0 ∧ full.ksv = true ∧ State.reset.err = 0 ∧ State.reset.ksv = false := by decide
theorem witness_LfsrMaximalPeriod : (1 : Word16) ≠ 0 ∧ (0x8000 : Word16) ≠ 0 := by decide
theorem witness_DecByteMeaning :
    full.ksv = true ∧ full.dpos.getLsbD 0 = true ∧ full.dpos.toNat + 1 < 2 ^ 64 ∧
    ({ full with dpos := 0xFFFFFFFFFFFFFFFE } : State).dpos.getLsbD 0 = false ∧
    (0xFFFFFFFFFFFFFFFE : Word64).toNat + 1 < 2 ^ 64 ∧ State.reset.ksv = false := by decide
theorem witness_DecryptClosedForm : ([0x48, 0x65, 0x6C] : List Byte)[2]? = some 0x6C := rfl
theorem witness_DecBufRefinesDecrypt :
    State.reset.err = 0 ∧ ([0x48, 0x65, 0x6C] : List Byte).length < 2 ^ 64 := by decide
theorem witness_CsByteMeaning : full.err = 0 ∧ full.csv = true ∧ State.reset.csv = false := by decide
theorem witness_CsVerifyMeaning :
    full.err = 0 ∧ full.csv = true ∧ full.cs = 5 ∧ full.cs ≠ 6 ∧ State.reset.csv = false := by decide
theorem witness_ChecksumLaws : ([1, 2] : List Byte).Perm [2, 1] := by decide
theorem witness_RleDictMeaning :
    State.reset.err = 0 ∧ State.reset.rlev = false ∧ full.err = 0 ∧ full.rlev = true := by decide
theorem witness_RleByteMeaning :
    pending.ocnt.toNat ≤ pending.cap.toNat ∧ pending.err = 0 ∧ pending.rlev = true ∧
    pending.rpos.toNat + 1 < 2 ^ 64 ∧ pending.esc = true ∧
    (∀ b ∈ [(0x10 : Byte), 0xF0, 0x11, 0xFF], b.toNat / 16 ≠ 0) ∧
    (∀ b ∈ [(0x01 : Byte), 0x0F], b ≠ 0x00 ∧ b.toNat / 16 = 0) ∧
    pending.dv.getLsbD 0 = true ∧ pending.dv.getLsbD 15 = false ∧
    crammed.ocnt.toNat ≤ crammed.cap.toNat ∧ crammed.esc = false ∧ State.reset.rlev = false := by decide
theorem witness_RleEndMeaning :
    roomy.err = 0 ∧ roomy.rlev = true ∧ roomy.esc = false ∧ pending.err = 0 ∧ pending.rlev = true ∧
      pending.esc = true ∧ pending.ocnt.toNat ≤ pending.cap.toNat ∧ State.reset.rlev = false := by decide
theorem witness_RleFinishEscape :
    pending.err = 0 ∧ pending.rlev = true ∧ pending.esc = true ∧
      pending.ocnt.toNat < pending.cap.toNat ∧
      ({ pending with ocnt := 2 } : State).ocnt = pending.cap := by decide
theorem witness_TokenMeanings_beats :
    ∃ s₁ s₂ s₃, exec (.rleByte 0x07) roomy = .next s₁ ∧ exec (.rleByte 0x00) s₁ = .next s₂ ∧
      exec (.rleByte 0x2F) s₁ = .next s₃ := ⟨_, _, _, rfl, rfl, rfl⟩
theorem witness_TokenMeanings :
    roomy.err = 0 ∧ roomy.rlev = true ∧ roomy.esc = false ∧ roomy.rpos.toNat + 2 < 2 ^ 64 ∧
    1 ≤ roomy.cap.toNat - roomy.ocnt.toNat ∧ (0x06 : Byte) ≠ 0x07 ∧
    (15 : BitVec 4).toNat ≤ roomy.cap.toNat - roomy.ocnt.toNat ∧ roomy.dv.getLsbD 15 = true := by decide
theorem witness_TokensAtCapacity :
    crammed.err = 0 ∧ crammed.rlev = true ∧ crammed.esc = false ∧ crammed.rpos.toNat + 2 < 2 ^ 64 ∧
    crammed.ocnt.toNat ≤ crammed.cap.toNat ∧ crammed.cap.toNat - crammed.ocnt.toNat = 0 ∧
    crammed.cap.toNat - crammed.ocnt.toNat < (1 : BitVec 4).toNat ∧ crammed.dv.getLsbD 15 = true := by decide
theorem witness_DecompressExpansion :
    15 * (([0x07, 0xFF, 0x41] : List Byte).length / 2) + ([0x07, 0xFF, 0x41] : List Byte).length % 2 ≤ 16 := by
  decide
theorem witness_RleBufRefinesDecompress :
    ({ State.reset with dv := 0xFFFF } : State).err = 0 ∧
      ({ State.reset with dv := 0xFFFF } : State).dv = 0xFFFF := by decide
theorem witness_RejoinFunctions :
    ([1, 2, 3] : List Byte).length = 3 * ([4] : List Byte).length ∧
    ([1, 2] : List Byte).length ≠ 3 * ([4] : List Byte).length := by decide
/-- DOFF fits: nothing at IN's end, in each slot. -/
theorem witness_HdrParseMeaning :
    State.reset.err = 0 ∧
    ∀ f : Fin 3, alignUp (5 + (parseHeader Config.magic 0 f [] 0).hlen.toNat) < 2 ^ 64 := by decide
/-- The header of `parsed`: flags A0, 38 bytes (V6). -/
def header38 : List Byte := [0xA1, 0xB2, 0xC3, 0xA0] ++ List.replicate 34 0x55
theorem witness_ParseHeaderFailsClosed :
    19 < 20 ∧ ([0xA1, 0xB2, 0xC2] : List Byte).getD 2 0 ≠ magic.m2 := by decide
theorem witness_ParseHeaderFields :
    20 ≤ 38 ∧ 36 ≤ 37 ∧ 37 < 36 + 2 ∧ 35 < 36 ∧ header38.getD 0 0 = magic.m0 ∧ header38.getD 1 0 = magic.m1 ∧
    header38.getD 2 0 = magic.m2 ∧ (header38.getD 3 0).getLsbD 7 = true ∧
    (header38.getD 3 0).getLsbD 5 = true ∧ (parseHeader magic 0 0 header38 38).valid = true ∧
    (parseHeader magic 0 0 header38 37).shortSum = true ∧
    (parseHeader magic 0 0 header38 36).shortSum = true ∧
    (parseHeader magic 0 0 header38 35).shortSum = false := by decide
theorem witness_ParseHeaderReadsHeaderOnly :
    (parseHeader magic 0 0 header38 38).valid = true ∧
    (parseHeader magic 0 0 header38 38).hlen.toNat ≤ 40 ∧
    ∀ j, j < 38 → header38[j]? = (header38 ++ [0x01, 0x02])[j]? := by decide

/-! Chains of one, two and three frames under the opaque magic, each ending at BLEN. -/

/-- One frame of two bytes, whose header says `orig`. -/
def cells₁ (orig : Byte) : Memory :=
  [(0, Config.magic.m0), (1, Config.magic.m1), (2, Config.magic.m2), (11, orig), (19, 2), (4096, 0x41)]
/-- Two float frames: 3 bytes at 4096; at 12288 one byte or two, whose header says `orig` and `stored`. -/
def cells₂ (orig stored : Byte) : Memory :=
  [(0, Config.magic.m0), (1, Config.magic.m1), (2, Config.magic.m2), (3, 0x18), (11, 3), (19, 3),
    (4096, 0x01), (4097, 0x02), (4098, 0x80),
    (8192, Config.magic.m0), (8193, Config.magic.m1), (8194, Config.magic.m2), (8195, 0x08),
    (8203, orig), (8211, stored), (12288, 0x7F)]
/-- Three float frames (P6's kind); the last header says `orig` and `stored`. -/
def cells₃ (orig stored : Byte) : Memory :=
  [(0, Config.magic.m0), (1, Config.magic.m1), (2, Config.magic.m2), (3, 0x1C), (11, 3), (19, 3),
    (4096, 0xDB), (4097, 0x0F), (4098, 0x49),
    (8192, Config.magic.m0), (8193, Config.magic.m1), (8194, Config.magic.m2), (8195, 0x1C), (8203, 1),
    (8211, 1), (12288, 0x80),
    (16384, Config.magic.m0), (16385, Config.magic.m1), (16386, Config.magic.m2), (16387, 0x0C),
    (16395, orig), (16403, stored), (20480, 0x80)]
/-- The state with a container in IN. -/
def loaded (inp : Memory) (blen : Word64) : State := { State.reset with inp := inp, blen := blen }
/-- The record of a header whose magic is right, the magic not looked at again. -/
def record (blen f off : Nat) (inp : Memory) : StreamCfg :=
  let bytes := inp.readRange off 38
  let c := parseDict bytes (blen - off) (fixedPart 0 f bytes)
  { c with off := BitVec.ofNat 64 off, doff := fit64 (dataOffset off c) 0 (0x20 * f + 7) }
theorem record_headerAt {blen f off : Nat} {inp : Memory} (ho : off + 38 ≤ blen)
    (h0 : (inp.readRange off 38).getD 0 0 = Config.magic.m0)
    (h1 : (inp.readRange off 38).getD 1 0 = Config.magic.m1)
    (h2 : (inp.readRange off 38).getD 2 0 = Config.magic.m2) :
    headerAt Config.magic 0 f inp blen off = .ok (record blen f off inp) := by
  obtain ⟨bytes, length, hb, hl, h⟩ := headerAt_ok Config.magic 0 f inp blen off
  rw [if_pos (by omega)] at hl
  rw [hl, show min (blen - off) 38 = 38 by omega] at hb
  rw [h, hb, hl, parseHeader_long (by omega) h0 h1 h2]
  rfl
/-- It is the header of IN at its OFF. -/
theorem record_parse {blen f off : Nat} {inp : Memory} (ho : off + 38 ≤ blen) (hb : blen < 2 ^ 64)
    (h0 : (inp.readRange off 38).getD 0 0 = Config.magic.m0)
    (h1 : (inp.readRange off 38).getD 1 0 = Config.magic.m1)
    (h2 : (inp.readRange off 38).getD 2 0 = Config.magic.m2) :
    let c := record blen f off inp
    c = { parseHeader Config.magic 0 f (inp.readRange c.off.toNat (min (blen - c.off.toNat) 38))
            (blen - c.off.toNat) with off := c.off, doff := c.doff } := by
  intro c
  have hc : c.off.toNat = off := (BitVec.toNat_ofNat ..).trans (Nat.mod_eq_of_lt (by omega))
  rw [hc, show min (blen - off) 38 = 38 by omega, parseHeader_long (by omega) h0 h1 h2]
  rfl
/-- The frames of the three containers. -/
def frames₁ (orig : Byte) : List StreamCfg := [record 4098 0 0 (cells₁ orig)]
def frames₂ (orig stored : Byte) : List StreamCfg :=
  [record 12290 0 0 (cells₂ orig stored), record 12290 1 8192 (cells₂ orig stored)]
def frames₃ (orig stored : Byte) : List StreamCfg :=
  [record 20482 0 0 (cells₃ orig stored), record 20482 1 8192 (cells₃ orig stored),
    record 20482 2 16384 (cells₃ orig stored)]
/-- Every bound lets one frame through, and every bound from 2 two. -/
theorem scan₁ {orig : Byte} (max : Nat) (h : orig = 1 ∨ orig = 2) :
    analyzeChain Config.magic 0 (cells₁ orig) 4098 (max + 1) = .ok (frames₁ orig) := by
  refine analyzeChain_accepts (chainFrom_last (record_headerAt (by omega) rfl rfl rfl) ?_ ?_ ?_) rfl
  all_goals rcases h with rfl | rfl <;> decide
theorem scan₂ {orig stored : Byte} (max : Nat)
    (h : (orig = 2 ∧ stored = 1) ∨ (orig = 1 ∧ stored = 1) ∨ (orig = 2 ∧ stored = 2)) :
    analyzeChain Config.magic 0 (cells₂ orig stored) 12290 (max + 2) = .ok (frames₂ orig stored) := by
  rcases h with ⟨rfl, rfl⟩ | ⟨rfl, rfl⟩ | ⟨rfl, rfl⟩
  all_goals
    refine analyzeChain_accepts (chainFrom_next (record_headerAt (by omega) rfl rfl rfl) rfl (by decide)
      rfl rfl (by omega) (by decide) ?_) (by decide)
    exact chainFrom_last (record_headerAt (off := 8192) (by omega) rfl rfl rfl) rfl (by decide) rfl
theorem scan₃ {orig stored : Byte} (h : (orig = 1 ∧ stored = 1) ∨ (orig = 2 ∧ stored = 2)) :
    analyzeChain Config.magic 0 (cells₃ orig stored) 20482 3 = .ok (frames₃ orig stored) := by
  rcases h with ⟨rfl, rfl⟩ | ⟨rfl, rfl⟩
  all_goals
    refine analyzeChain_accepts (chainFrom_next (record_headerAt (by omega) rfl rfl rfl) rfl (by decide)
      rfl rfl (by omega) (by decide) (chainFrom_next (record_headerAt (off := 8192) (by omega) rfl rfl rfl)
      rfl (by decide) rfl rfl (by omega) (by decide) ?_)) (by decide)
    exact chainFrom_last (record_headerAt (off := 16384) (by omega) rfl rfl rfl) rfl (by decide) rfl

theorem witness_ChainScanMeaning :
    let s := loaded (cells₂ 1 1) 12290
    s.err = 0 ∧ 1 ≤ (3 : Byte).toNat ∧ (3 : Byte).toNat ≤ 3 ∧
      analyzeChain Config.magic s.free s.inp s.blen.toNat (3 : Byte).toNat = .ok (frames₂ 1 1) :=
  ⟨rfl, by decide, by decide, scan₂ 1 (.inr (.inl ⟨rfl, rfl⟩))⟩
theorem witness_ChainScanMeaning_stops :
    ((0 : Byte).toNat < 1 ∨ 3 < (0 : Byte).toNat) ∧ ((4 : Byte).toNat < 1 ∨ 3 < (4 : Byte).toNat) ∧
    analyzeChain Config.magic State.reset.free State.reset.inp State.reset.blen.toNat (1 : Byte).toNat =
      .error formatStop := ⟨by decide, by decide, rfl⟩

/-- A function's success, read off what is computed of it. -/
theorem ok_of_map {α : Type} {x : Except Stop α} {p : α → Bool}
    (h : x.toOption.map p = some true) : ∃ a, x = .ok a ∧ p a = true := by
  cases x with
  | error e => simp [Except.toOption] at h
  | ok a => exact ⟨a, rfl, by simpa [Except.toOption] using h⟩

/-- The conditions of ChainFramesLegal on frame `j`, the tie to IN apart. -/
def placed (frames : List StreamCfg) (blen j : Nat) (c : StreamCfg) : Bool :=
  c.valid && decide (c.doff.toNat = alignUp (c.off.toNat + c.hlen.toNat)) &&
  decide (c.doff.toNat + c.stored.toNat ≤ blen) && (j != 0 || c.off == 0) &&
  ((frames[j + 1]?).all fun d => d.off.toNat = alignUp (c.doff.toNat + c.stored.toNat)) &&
  (c.cont == decide (j + 1 < frames.length)) &&
  (frames.length != 2 || c.flt && !c.flt3) && (frames.length != 3 || c.flt && c.flt3)
/-- One, two and three frames at max = 1, 2 and 3, the last data region ending at BLEN itself: both sides
of the statement, the tie to IN below. -/
theorem witness_ChainFramesLegal :
    (analyzeChain Config.magic 0 (cells₁ 2) 4098 1 = .ok (frames₁ 2) ∧
      (frames₁ 2).zipIdx.all (fun c => placed (frames₁ 2) 4098 c.2 c.1) = true) ∧
    (analyzeChain Config.magic 0 (cells₂ 2 2) 12290 2 = .ok (frames₂ 2 2) ∧
      (frames₂ 2 2).zipIdx.all (fun c => placed (frames₂ 2 2) 12290 c.2 c.1) = true) ∧
    (analyzeChain Config.magic 0 (cells₃ 2 2) 20482 3 = .ok (frames₃ 2 2) ∧
      (frames₃ 2 2).zipIdx.all (fun c => placed (frames₃ 2 2) 20482 c.2 c.1) = true) :=
  ⟨⟨scan₁ 0 (.inr rfl), by decide⟩, ⟨scan₂ 0 (.inr (.inr ⟨rfl, rfl⟩)), by decide⟩,
    scan₃ (.inr ⟨rfl, rfl⟩), by decide⟩
theorem witness_ChainFramesLegal_headers :
    (∀ j c, (frames₁ 2)[j]? = some c → c =
      { parseHeader Config.magic 0 j ((cells₁ 2).readRange c.off.toNat (min (4098 - c.off.toNat) 38))
          (4098 - c.off.toNat) with off := c.off, doff := c.doff }) ∧
    (∀ j c, (frames₂ 2 2)[j]? = some c → c =
      { parseHeader Config.magic 0 j ((cells₂ 2 2).readRange c.off.toNat (min (12290 - c.off.toNat) 38))
          (12290 - c.off.toNat) with off := c.off, doff := c.doff }) ∧
    ∀ j c, (frames₃ 2 2)[j]? = some c → c =
      { parseHeader Config.magic 0 j ((cells₃ 2 2).readRange c.off.toNat (min (20482 - c.off.toNat) 38))
          (20482 - c.off.toNat) with off := c.off, doff := c.doff } := by
  refine ⟨fun j c h => ?_, fun j c h => ?_, fun j c h => ?_⟩
  · simp only [frames₁] at h
    rcases j with _ | j
    · simp only [List.getElem?_cons_zero, Option.some.injEq] at h
      subst h
      exact record_parse (by omega) (by omega) rfl rfl rfl
    · simp at h
  · simp only [frames₂] at h
    rcases j with _ | (_ | j)
    · simp only [List.getElem?_cons_zero, Option.some.injEq] at h
      subst h
      exact record_parse (by omega) (by omega) rfl rfl rfl
    · simp only [Nat.reduceAdd, List.getElem?_cons_zero, List.getElem?_cons_succ, Option.some.injEq] at h
      subst h
      exact record_parse (by omega) (by omega) rfl rfl rfl
    · simp at h
  · simp only [frames₃] at h
    rcases j with _ | (_ | (_ | j))
    · simp only [List.getElem?_cons_zero, Option.some.injEq] at h
      subst h
      exact record_parse (by omega) (by omega) rfl rfl rfl
    · simp only [Nat.reduceAdd, List.getElem?_cons_zero, List.getElem?_cons_succ, Option.some.injEq] at h
      subst h
      exact record_parse (by omega) (by omega) rfl rfl rfl
    · simp only [Nat.reduceAdd, List.getElem?_cons_zero, List.getElem?_cons_succ, Option.some.injEq] at h
      subst h
      exact record_parse (by omega) (by omega) rfl rfl rfl
    · simp at h

/-- A one-frame container decodes, or fails its length check, whatever the parameters are. -/
theorem witness_DecodeMeaning :
    (loaded (cells₁ 2) 4098).err = 0 ∧
    decode Config.magic Config.trailingEscape Config.maxStreams 0 (cells₁ 2) 4098 0 = .ok [0x41, 0x00] ∧
    decode Config.magic Config.trailingEscape Config.maxStreams 0 (cells₁ 1) 4098 0 =
      .error (.raised .sizeMismatch) := by
  refine ⟨rfl, ?_, ?_⟩
  · rw [decode, Config.maxStreams, scan₁ _ (.inr rfl)]
    rfl
  · rw [decode, Config.maxStreams, scan₁ _ (.inl rfl)]
    rfl
/-- DECODE of the good container, whatever the registers held before. -/
theorem loaded_decodes {s : State} (he : s.err = 0) (hi : s.inp = cells₁ 2) (hb : s.blen = 4098)
    (hf : s.free = 0) : ∃ t, exec (.decode 0) s = .next t ∧ t.outv = true := by
  have hc : analyzeChain Config.magic (beginDecode s).free (beginDecode s).inp
      (beginDecode s).blen.toNat Config.maxStreams = .ok (frames₁ 2) := by
    show analyzeChain Config.magic s.free s.inp s.blen.toNat _ = _
    rw [hi, hb, hf]
    exact scan₁ _ (.inr rfl)
  have hs : decodeFrames Config.trailingEscape (beginDecode s).inp (beginDecode s).blen.toNat 0
      (frames₁ 2) = .ok [[0x41, 0x00]] := by
    show decodeFrames _ s.inp s.blen.toNat 0 (frames₁ 2) = _
    rw [hi, hb]
    rfl
  exact ⟨_, (decodeWith_ready he).trans (runDecode_ok hc hs (combine_one _)), rfl⟩
theorem witness_DecodeLeavesScan :
    (∃ t, exec (.decode 0) (loaded (cells₁ 2) 4098) = .next t ∧ t.outv = true) ∧
    analyzeChain Config.magic 0 (cells₁ 2) 4098 Config.maxStreams = .ok (frames₁ 2) ∧
    (∃ t, exec (.decode 0) State.reset = .next t) ∧
    analyzeChain Config.magic 0 [] 0 Config.maxStreams = .error formatStop :=
  ⟨loaded_decodes rfl rfl rfl rfl, scan₁ _ (.inr rfl), ⟨_, rfl⟩, rfl⟩
/-- MAX_STREAMS 3, TRAILING_ESCAPE `error`: no chain; a second frame that fails after a good one. -/
theorem witness_DecodeErrorOrder_fails :
    analyzeChain Config.magic 0 [] 0 3 = .error formatStop ∧
    analyzeChain Config.magic 0 (cells₂ 2 1) 12290 3 =
      .ok ([record 12290 0 0 (cells₂ 2 1)] ++ record 12290 1 8192 (cells₂ 2 1) :: []) ∧
    decodeFrame .error (cells₂ 2 1) 12290 0 (record 12290 0 0 (cells₂ 2 1)) = .ok [0x01, 0x02, 0x80] ∧
    decodeFrame .error (cells₂ 2 1) 12290 0 (record 12290 1 8192 (cells₂ 2 1)) =
      .error (.raised .sizeMismatch) :=
  ⟨rfl, scan₂ 1 (.inl ⟨rfl, rfl⟩), rfl, rfl⟩
/-- One, two and three frames that decode; streams that fit together and streams that do not. -/
theorem witness_DecodeErrorOrder_ends :
    analyzeChain Config.magic 0 (cells₁ 2) 4098 3 = .ok [record 4098 0 0 (cells₁ 2)] ∧
    (decodeFrame .error (cells₁ 2) 4098 0 (record 4098 0 0 (cells₁ 2)) = .ok [0x41, 0x00]) ∧
    (analyzeChain Config.magic 0 (cells₂ 1 1) 12290 3 = .ok (frames₂ 1 1) ∧
      (frames₂ 1 1).map (decodeFrame .error (cells₂ 1 1) 12290 0) =
        [.ok [0x01, 0x02, 0x80], .ok [0x7F]] ∧
      rejoin2 [0x01, 0x02, 0x80] [0x7F] = .ok [0x01, 0x02, 0x80, 0xBF]) ∧
    (analyzeChain Config.magic 0 (cells₂ 2 2) 12290 3 = .ok (frames₂ 2 2) ∧
      (frames₂ 2 2).map (decodeFrame .error (cells₂ 2 2) 12290 0) =
        [.ok [0x01, 0x02, 0x80], .ok [0x7F, 0x00]] ∧
      rejoin2 [0x01, 0x02, 0x80] [0x7F, 0x00] = .error (.raised .rejoinLength)) ∧
    (analyzeChain Config.magic 0 (cells₃ 1 1) 20482 3 = .ok (frames₃ 1 1) ∧
      (frames₃ 1 1).map (decodeFrame .error (cells₃ 1 1) 20482 0) =
        [.ok [0xDB, 0x0F, 0x49], .ok [0x80], .ok [0x80]] ∧
      rejoin3 [0xDB, 0x0F, 0x49] [0x80] [0x80] = .ok [0xDB, 0x0F, 0x49, 0xC0]) ∧
    (analyzeChain Config.magic 0 (cells₃ 2 2) 20482 3 = .ok (frames₃ 2 2) ∧
      (frames₃ 2 2).map (decodeFrame .error (cells₃ 2 2) 20482 0) =
        [.ok [0xDB, 0x0F, 0x49], .ok [0x80], .ok [0x80, 0x00]] ∧
      rejoin3 [0xDB, 0x0F, 0x49] [0x80] [0x80, 0x00] = .error (.raised .rejoinLength)) :=
  ⟨scan₁ _ (.inr rfl), rfl, ⟨scan₂ 1 (.inr (.inl ⟨rfl, rfl⟩)), rfl, rfl⟩,
    ⟨scan₂ 1 (.inr (.inr ⟨rfl, rfl⟩)), rfl, rfl⟩, ⟨scan₃ (.inl ⟨rfl, rfl⟩), rfl, rfl⟩,
    ⟨scan₃ (.inr ⟨rfl, rfl⟩), rfl, rfl⟩⟩
/-- A frame of the 6 bytes of P4's data region. -/
def frame6 (flags : BitVec 8) (orig : Word64) (sum : Word16) : StreamCfg :=
  { StreamCfg.atReset with
    valid := true, hlen := 20, flags := flags, orig := orig, stored := 6, doff := 4096, sum := sum }
theorem witness_DecodeFrameStages :
    (frame6 0x20 6 0).doff.toNat + (frame6 0x20 6 0).stored.toNat ≤ 4102 ∧
    (frame6 0x20 6 0x02AF).cks = true ∧ checksum (p4.readRange 4096 6) ≠ 0x02AF ∧
    (frame6 0x20 6 0x02AE).comp = false ∧ checksum (p4.readRange 4096 6) = 0x02AE ∧
    (p4.readRange 4096 6).length = (frame6 0x20 6 0x02AE).orig.toNat ∧
    (p4.readRange 4096 6).length ≠ (frame6 0x00 5 0).orig.toNat ∧ (frame6 0x80 6 0).comp = true ∧
    (decompress .error (p4.readRange 4096 6) (frame6 0x80 6 0).dict 96).2 = none ∧
    (decompress .error (p4.readRange 4096 6) (frame6 0x80 6 0).dict 96).1.length = 6 ∧
    (decompress .error ((p4.write 4101 0x07).readRange 4096 6) (frame6 0x80 6 0).dict 96).2 =
      some .truncatedEscape := by decide
theorem witness_DecodeErrorsPossible :
    4102 < 2 ^ 64 ∧ 3 ≤ 3 ∧ ∃ stop, decode magic .error 3 0 p4 4102 0x1338 = .error stop := by
  refine ⟨by decide, by decide, ?_⟩
  cases h : decode magic .error 3 0 p4 4102 0x1338 with
  | error e => exact ⟨e, rfl⟩
  | ok b =>
    have := test_decode_p4_wrong_key
    rw [h] at this
    exact absurd this (by simp)
theorem witness_DecodeForgetsHistory :
    let s₁ := loaded (cells₁ 2) 4098
    let s₂ : State := { s₁ with ks := 7, ksv := true, dpos := 9, rlev := true, esc := true }
    s₁.inp = s₂.inp ∧ s₁.blen = s₂.blen ∧
    (∃ t, exec (.decode 0) s₁ = .next t ∧ t.outv = true) ∧
    (∃ t, exec (.decode 0) s₂ = .next t ∧ t.outv = true) ∧
    decode Config.magic Config.trailingEscape Config.maxStreams s₁.free s₁.inp s₁.blen.toNat 0 =
      .ok [0x41, 0x00] :=
  ⟨rfl, rfl, loaded_decodes rfl rfl rfl rfl, loaded_decodes rfl rfl rfl rfl, witness_DecodeMeaning.2.1⟩
/-- Address 100 is padding of P5's container. -/
theorem witness_PaddingNeverRead :
    12290 < 2 ^ 64 ∧ 3 ≤ 3 ∧ ∃ frames, analyzeChain magic 0 (p5 0x18 0x08) 12290 3 = .ok frames ∧
    ∀ c ∈ frames, ∀ a : Nat,
      (c.off.toNat ≤ a ∧ a < c.off.toNat + c.hlen.toNat) ∨
        (c.doff.toNat ≤ a ∧ a < c.doff.toNat + c.stored.toNat) →
      ((p5 0x18 0x08).write 100 0x55).read a = (p5 0x18 0x08).read a := by
  refine ⟨by decide, by decide, ?_⟩
  obtain ⟨fs, h, hp⟩ := ok_of_map (x := analyzeChain magic 0 (p5 0x18 0x08) 12290 3)
    (p := fun fs => fs.all fun c =>
      decide (c.off.toNat + c.hlen.toNat ≤ 100 ∨ 100 < c.off.toNat) && decide (100 < c.doff.toNat))
    (by decide)
  refine ⟨fs, h, fun c hc a ha => read_write_ne _ ?_⟩
  have := List.all_eq_true.mp hp c hc
  simp only [Bool.and_eq_true, decide_eq_true_eq] at this
  omega
/-- A state other than reset that has the invariant, a chain scanned and an escape pending, with a command
on its port. -/
def scanned : State :=
  { pending with
    port := [.command 0x430000000000000000]
    scanv := true, nfr := 1, blen := 4096
    cfg := State.reset.cfg.set 0 { StreamCfg.atReset with valid := true, hlen := 20, doff := 4096 } }
theorem witness_InputNeverWritten : ∃ t, step (broken.issue (.command 1)) = .next t := ⟨_, rfl⟩
theorem witness_StepKeepsInvariant : Invariant scanned ∧ ∃ t, step scanned = .next t := by
  refine ⟨⟨rfl, rfl, rfl, by decide, by decide, by decide, fun _ => ⟨by decide, ?_⟩, by decide, rfl,
    by decide⟩, _, rfl⟩
  intro f hf
  match f, hf with
  | 0, _ => exact ⟨rfl, rfl, rfl, rfl, by decide⟩

end Sys2Proof.Tests
end

/-! PROOFS. What a DECODE answers and leaves behind (47_orchestrator.md R251, R257, R258). -/

namespace Sys2Proof.Proofs

open Sys2Proof Sys2Proof.Machine

/-! ### The frames of an accepted chain lie inside IN -/

section Chain

variable {magic : Magic} {draw f off room max : Nat} {inp : Memory} {blen : Nat}

/-- DOFF holds the data offset wherever that offset fits a register. -/
theorem headerAt_doff {c : StreamCfg} (h : headerAt magic draw f inp blen off = .ok c)
    (hfit : dataOffset off c < 2 ^ 64) : c.doff.toNat = dataOffset off c := by
  obtain ⟨bytes, length, -, -, hok⟩ := headerAt_ok magic draw f inp blen off
  obtain rfl := Except.ok.inj (hok.symm.trans h)
  exact fit64_toNat _ _ hfit

/-- R216: the walk accepts a frame only if its data region ends inside IN, as its record says it. -/
theorem chainFrom_data_inside (hb : blen < 2 ^ 64) {frames : List StreamCfg}
    (h : chainFrom magic draw inp blen room f off = .ok frames) :
    ∀ c ∈ frames, c.doff.toNat + c.stored.toNat ≤ blen := by
  induction room generalizing f off frames with
  | zero => simp [chainFrom] at h
  | succ room ih =>
    obtain ⟨room', c, hroom, hc, -, hend, hrest⟩ := chainFrom_ok h
    obtain rfl := Nat.succ.inj hroom
    have hfirst : c.doff.toNat + c.stored.toNat ≤ blen := by
      rwa [headerAt_doff hc (by omega)]
    obtain ⟨-, rfl⟩ | ⟨-, -, -, -, cs, hcs, rfl⟩ := hrest
    · exact List.forall_mem_singleton.mpr hfirst
    · exact List.forall_mem_cons.mpr ⟨hfirst, ih hcs⟩

theorem analyzeChain_data_inside (hb : blen < 2 ^ 64) {frames : List StreamCfg}
    (h : analyzeChain magic draw inp blen max = .ok frames) :
    ∀ c ∈ frames, c.doff.toNat + c.stored.toNat ≤ blen :=
  chainFrom_data_inside hb (analyzeChain_ok h).1

end Chain

/-! ### A function rule that fails raises an error of the spec

`Stop.readOutside` is the model's alternative to `Stop.raised`; on frames inside IN it never arises (R14). -/

section Errors

variable {te : TrailingEscape} {inp : Memory} {blen : Nat} {key : Word16} {stop : Stop}

theorem checksumStage_error {c : StreamCfg} {d : List Byte}
    (h : checksumStage c d = .error stop) : stop = .raised .integrity := by
  unfold checksumStage at h
  split at h
  · exact (Except.error.inj h).symm
  · cases h

theorem decompressStage_error {c : StreamCfg} {d : List Byte}
    (h : decompressStage te c d = .error stop) : ∃ e, stop = .raised e := by
  unfold decompressStage at h
  split at h
  · split at h
    · cases h
    · exact ⟨_, (Except.error.inj h).symm⟩
  · cases h

theorem lengthStage_error {c : StreamCfg} {d : List Byte}
    (h : lengthStage c d = .error stop) : stop = .raised .sizeMismatch := by
  unfold lengthStage at h
  split at h
  · cases h
  · exact (Except.error.inj h).symm

theorem decodeFrame_error_raised {c : StreamCfg} (hc : c.doff.toNat + c.stored.toNat ≤ blen)
    (h : decodeFrame te inp blen key c = .error stop) : ∃ e, stop = .raised e := by
  simp only [decodeFrame, memRead_inside (inp := inp) (.inr hc)] at h
  split at h
  · next hsum => exact ⟨_, (Except.error.inj h) ▸ checksumStage_error hsum⟩
  split at h
  · next hrle => exact (Except.error.inj h) ▸ decompressStage_error hrle
  · exact ⟨_, lengthStage_error h⟩

theorem decodeFrames_error_raised {frames : List StreamCfg}
    (hin : ∀ c ∈ frames, c.doff.toNat + c.stored.toNat ≤ blen)
    (h : decodeFrames te inp blen key frames = .error stop) : ∃ e, stop = .raised e := by
  induction frames with
  | nil => cases h
  | cons c cs ih =>
    obtain ⟨hc, hcs⟩ := List.forall_mem_cons.mp hin
    simp only [decodeFrames] at h
    split at h
    · next hframe => exact (Except.error.inj h) ▸ decodeFrame_error_raised hc hframe
    split at h
    · next hrest =>
      obtain rfl := Except.error.inj h
      exact ih hcs hrest
    · cases h

theorem rejoin2_error {signfrac exp : List Byte} (h : rejoin2 signfrac exp = .error stop) :
    stop = .raised .rejoinLength := by
  unfold rejoin2 at h
  split at h
  · cases h
  · exact (Except.error.inj h).symm

theorem rejoin3_error {frac exp sign : List Byte} (h : rejoin3 frac exp sign = .error stop) :
    stop = .raised .rejoinLength := by
  unfold rejoin3 at h
  split at h
  · cases h
  · exact (Except.error.inj h).symm

theorem combine_error_raised {streams : List (List Byte)} (h : combine streams = .error stop) :
    ∃ e, stop = .raised e := by
  unfold combine at h
  split at h
  · cases h
  · exact ⟨_, rejoin2_error h⟩
  · exact ⟨_, rejoin3_error h⟩
  · exact ⟨_, (Except.error.inj h).symm⟩

end Errors

/-! ### The function `decode` by the stage that ends it (R251) -/

section Function

variable {magic : Magic} {te : TrailingEscape} {max draw : Nat} {inp : Memory} {blen : Nat}
  {key : Word16} {stop : Stop} {frames : List StreamCfg}

theorem decode_of_chain_error (hc : analyzeChain magic draw inp blen max = .error stop) :
    decode magic te max draw inp blen key = .error stop := by
  simp only [decode, hc]

theorem decode_of_frame_error (hc : analyzeChain magic draw inp blen max = .ok frames)
    (hf : decodeFrames te inp blen key frames = .error stop) :
    decode magic te max draw inp blen key = .error stop := by
  simp only [decode, hc, hf]

theorem decode_of_streams {streams : List (List Byte)}
    (hc : analyzeChain magic draw inp blen max = .ok frames)
    (hf : decodeFrames te inp blen key frames = .ok streams) :
    decode magic te max draw inp blen key = combine streams := by
  simp only [decode, hc, hf]

end Function

/-! ### The command and the function it answers -/

section Command

variable {te : TrailingEscape} {max : Nat} {key : Word16} {s : State}

/-- What the work of DECODE between its start and its end does not write. -/
structure KeepsBuffers (s u : State) : Prop where
  port : u.port = s.port
  err : u.err = s.err
  inp : u.inp = s.inp
  blen : u.blen = s.blen
  outv : u.outv = s.outv
  out : u.out = s.out
  olen : u.olen = s.olen

theorem keepsBuffers_recordNoScan (s : State) : KeepsBuffers s (recordNoScan s) := by
  constructor <;> rfl

theorem keepsBuffers_recordScan (frames : List StreamCfg) (s : State) :
    KeepsBuffers s (recordScan frames s) := by
  constructor <;> rfl

theorem keepsBuffers_fillStreams_recordScan (frames : List StreamCfg) (streams : List (List Byte)) (s : State) :
    KeepsBuffers s (fillStreams streams (recordScan frames s)) := by
  constructor <;> rfl

/-- R258: the command ends as the function does, with no third outcome. -/
theorem runDecode_of_decode (te : TrailingEscape) (max : Nat) (key : Word16) (s : State) :
    (∃ bytes u, decode Config.magic te max s.free s.inp s.blen.toNat key = .ok bytes ∧
      runDecode te max key s = .next (finishDecode bytes u) ∧ u.scanv = true ∧ KeepsBuffers s u) ∨
    (∃ e u, decode Config.magic te max s.free s.inp s.blen.toNat key = .error (.raised e) ∧
      runDecode te max key s = .next (takeError e [] (endDecode u)) ∧ KeepsBuffers s u) := by
  cases hc : analyzeChain Config.magic s.free s.inp s.blen.toNat max with
  | error stop =>
    obtain rfl := analyzeChain_error hc
    exact .inr ⟨_, _, decode_of_chain_error hc, runDecode_chain_error hc, keepsBuffers_recordNoScan s⟩
  | ok frames =>
    have hin := analyzeChain_data_inside s.blen.isLt hc
    cases hf : decodeFrames te s.inp s.blen.toNat key frames with
    | error stop =>
      obtain ⟨e, rfl⟩ := decodeFrames_error_raised hin hf
      exact .inr ⟨e, _, decode_of_frame_error hc hf, runDecode_frame_error hc hf,
        keepsBuffers_recordScan frames s⟩
    | ok streams =>
      have hkeep := keepsBuffers_fillStreams_recordScan frames streams s
      have hdec := decode_of_streams (key := key) hc hf
      cases hj : combine streams with
      | error stop =>
        obtain ⟨e, rfl⟩ := combine_error_raised hj
        exact .inr ⟨e, _, hdec.trans hj, runDecode_rejoin_error hc hf hj, hkeep⟩
      | ok bytes => exact .inl ⟨bytes, _, hdec.trans hj, runDecode_ok hc hf hj, rfl, hkeep⟩

theorem endDecode_streams_getElem (s : State) (f : Fin 3) : (endDecode s).streams[f] = [] := by
  simp [State.reset]

/-- R257: what the host is owed after a success is the bytes, if their number fits OLEN. -/
theorem finishDecode_output {bytes : List Byte} (u : State) (h : bytes.length < 2 ^ 64) :
    (finishDecode bytes u).olen.toNat = bytes.length ∧
      (finishDecode bytes u).output = some bytes := by
  have hlen : (finishDecode bytes u).olen.toNat = bytes.length := fit64_toNat _ _ h
  refine ⟨hlen, ?_⟩
  calc (finishDecode bytes u).output
      = some ((Memory.writeBytes [] 0 bytes).readRange 0 (finishDecode bytes u).olen.toNat) := rfl
    _ = some bytes := by rw [hlen, readRange_writeBytes 0 bytes rfl]

theorem exec_decode_ready (h : s.err = 0) :
    exec (.decode key) s =
      runDecode Config.trailingEscape Config.maxStreams key (beginDecode s) :=
  decodeWith_ready h

end Command

/-- Settles O50: the two ends of `runDecode_of_decode`, read field by field. -/
theorem decodeMeaning : Obligations.DecodeMeaning := by
  intro s key he
  rw [exec_decode_ready he]
  obtain ⟨bytes, u, hdec, hrun, hscan, hu⟩ | ⟨e, u, hdec, hrun, hu⟩ :=
    runDecode_of_decode Config.trailingEscape Config.maxStreams key (beginDecode s)
  · have herr : u.err = 0 := hu.err.trans he
    refine ⟨_, hrun, rfl, rfl, rfl, rfl, rfl, rfl, rfl, rfl, rfl, endDecode_streams_getElem u,
      hu.inp, hu.blen, hu.port, fun bytes' h => ?_, fun stop h => ?_⟩
    · obtain rfl := Except.ok.inj (hdec.symm.trans h)
      exact ⟨herr, rfl, hscan, rfl, by simp [finishDecode, respond, herr], finishDecode_output u⟩
    · cases hdec.symm.trans h
  · have herr : (endDecode u).err = 0 := hu.err.trans he
    rw [takeError_ready herr] at hrun
    refine ⟨_, hrun, rfl, rfl, rfl, rfl, rfl, rfl, rfl, rfl, rfl, endDecode_streams_getElem u,
      hu.inp, hu.blen, hu.port, fun bytes h => ?_, fun stop h => ?_⟩
    · cases hdec.symm.trans h
    · obtain rfl := Except.error.inj (hdec.symm.trans h)
      exact ⟨e, rfl, rfl, hu.outv, hu.olen, hu.out, rfl⟩

end Sys2Proof.Proofs

/-! PROOFS. The control commands RDREG and RESET and the view STAT (10_state.md R28, R30, R36, R41;
47_orchestrator.md R261, R262). -/

namespace Sys2Proof.Proofs

open Sys2Proof Sys2Proof.Machine Sys2Proof.Certificates

/-! ### STAT -/

theorem flagBit_getLsbD (b : Bool) {k : Nat} (hk : k < 16) (i : Nat) :
    (flagBit b k).getLsbD i = (decide (i = k) && b) := by
  simp only [flagBit, BitVec.getLsbD_shiftLeft, BitVec.getLsbD_setWidth, BitVec.getLsbD_ofBool]
  by_cases hi : i = k
  · subst hi
    simp [hk]
  · have hlow : i < k ∨ i - k ≠ 0 := by omega
    rcases hlow with h | h <;> simp [hi, h]

/-- STAT has at bit `i` the one flag that R28 places there, and 0 where it places none. -/
theorem stat_getLsbD (s : State) (i : Nat) :
    s.stat.getLsbD i =
      (decide (i = 0) && s.ksv || decide (i = 1) && s.ph || decide (i = 2) && s.csv ||
        decide (i = 3) && s.rlev || decide (i = 4) && s.esc || decide (i = 5) && s.scanv ||
        decide (i = 6) && s.outv) := by
  simp only [State.stat, BitVec.getLsbD_or]
  repeat rw [flagBit_getLsbD _ (by omega)]

/-- Settles O8: each bit of `stat_getLsbD` in turn. -/
theorem statBits : Obligations.StatBits := by
  intro s
  refine ⟨(stat_getLsbD s 0).trans (by simp), (stat_getLsbD s 1).trans (by simp [State.ph]),
    (stat_getLsbD s 2).trans (by simp), (stat_getLsbD s 3).trans (by simp),
    (stat_getLsbD s 4).trans (by simp), (stat_getLsbD s 5).trans (by simp),
    (stat_getLsbD s 6).trans (by simp), fun i hi => ?_⟩
  have hne : ∀ k, k < 7 → i ≠ k := fun k hk => by omega
  simp [stat_getLsbD, hne]

/-! ### The register numbers -/

theorem regOf_dict : ∀ i : Fin 16, regOf (BitVec.ofNat 8 (0x10 + i)) = some (.dict i) := by decide

/-- R36: record `f` occupies the 32 numbers from 0x40 + 0x20 f. -/
theorem regOf_cfg : ∀ (f : Fin 3) (k : Fin 32),
    regOf (BitVec.ofNat 8 (0x40 + 0x20 * f + k)) = (cfgFieldOf k).map (.cfg f) := by decide

theorem cfgFieldOf_dict : ∀ i : Fin 16, cfgFieldOf (0x10 + i) = some (.dict i) := by decide

/-- A number inside a record names the record's field of that offset. -/
theorem regOf_cfgField (f : Fin 3) {k : Nat} {g : CfgField} (hk : k < 32)
    (hg : cfgFieldOf k = some g) :
    regOf (BitVec.ofNat 8 (0x40 + 0x20 * f + k)) = some (.cfg f g) := by
  rw [regOf_cfg f ⟨k, hk⟩, hg]
  rfl

/-- A number R30 and R36 assign to no register. -/
def Unassigned (r : BitVec 8) : Prop :=
  r.toNat = 0x08 ∨ (0x0D ≤ r.toNat ∧ r.toNat < 0x10) ∨ (0x20 ≤ r.toNat ∧ r.toNat < 0x40) ∨
    0xA0 ≤ r.toNat ∨
    (0x40 ≤ r.toNat ∧ r.toNat < 0xA0 ∧ 8 ≤ r.toNat % 0x20 ∧ r.toNat % 0x20 < 0x10)

theorem regOf_unassigned : ∀ r : BitVec 8, Unassigned r → regOf r = none := by
  unfold Unassigned
  decide +kernel

/-! ### RDREG by what the number names -/

theorem exec_rdreg_known {r : BitVec 8} {g : Reg} {v : Word64} {s : State}
    (hr : regOf r = some g) (hv : s.readReg g = .known v) :
    exec (.rdreg r) s = .next (answered s v []) := by
  simp only [exec, execRdreg, readRegister, hr, hv]
  rfl

theorem exec_rdreg_unspecified {r : BitVec 8} {g : Reg} {mask : Word64} {s : State}
    (hr : regOf r = some g) (hv : s.readReg g = .unspecified mask) :
    exec (.rdreg r) s = .next (answered { s with free := s.free + 1 }
      (Config.freeValue s.free 0 &&& mask) []) := by
  simp only [exec, execRdreg, readRegister, hr, hv]
  rfl

theorem exec_rdreg_unassigned {r : BitVec 8} {s : State} (hr : regOf r = none) :
    exec (.rdreg r) s = .next (takeError .protocol [] s) := by
  simp only [exec, execRdreg, readRegister, hr]

/-- RDREG of a field of a record. -/
theorem exec_rdreg_cfg {f : Fin 3} {k : Nat} {g : CfgField} {v : Word64} {s : State} (hk : k < 32)
    (hg : cfgFieldOf k = some g) (hv : s.cfg[f].readField g = .known v) :
    exec (.rdreg (BitVec.ofNat 8 (0x40 + 0x20 * f + k))) s = .next (answered s v []) :=
  exec_rdreg_known (regOf_cfgField f hk hg) hv

/-- Settles O9: every case is `exec_rdreg_known` at the register the number names. -/
theorem rdregAnswersRegisters : Obligations.RdregAnswersRegisters := by
  intro s
  refine ⟨fun h => exec_rdreg_known (g := .ks) rfl (if_pos h),
    fun h => exec_rdreg_known (g := .cs) rfl (if_pos h),
    exec_rdreg_known (g := .stat) rfl rfl, exec_rdreg_known (g := .err) rfl rfl,
    exec_rdreg_known (g := .dpos) rfl rfl, exec_rdreg_known (g := .rpos) rfl rfl,
    exec_rdreg_known (g := .ocnt) rfl rfl, exec_rdreg_known (g := .cap) rfl rfl,
    exec_rdreg_known (g := .dv) rfl rfl, exec_rdreg_known (g := .nfr) rfl rfl,
    exec_rdreg_known (g := .olen) rfl rfl, exec_rdreg_known (g := .blen) rfl rfl,
    fun i h => exec_rdreg_known (regOf_dict i) (if_pos h), fun f => ⟨?_, fun h => ?_, fun h => ?_⟩⟩
  · refine exec_rdreg_cfg (g := .valid) (by decide) rfl ?_
    show RegValue.known ((BitVec.ofBool s.cfg[f].valid).setWidth 64) = _
    cases s.cfg[f].valid <;> rfl
  · exact exec_rdreg_cfg (g := .hlen) (by decide) rfl (if_pos (Bool.or_eq_true_iff.mpr (.inr h)))
  · exact ⟨exec_rdreg_cfg (g := .hlen) (by decide) rfl (if_pos (Bool.or_eq_true_iff.mpr (.inl h))),
      exec_rdreg_cfg (g := .flags) (by decide) rfl (if_pos h),
      exec_rdreg_cfg (g := .orig) (by decide) rfl (if_pos h),
      exec_rdreg_cfg (g := .stored) (by decide) rfl (if_pos h),
      exec_rdreg_cfg (g := .sum) (by decide) rfl (if_pos h),
      exec_rdreg_cfg (g := .off) (by decide) rfl (if_pos h),
      exec_rdreg_cfg (g := .doff) (by decide) rfl (if_pos h),
      fun i => exec_rdreg_cfg (by omega) (cfgFieldOf_dict i) (if_pos h)⟩

/-- RDREG answers a value below `bound` and counts one draw (93 U7; log 6). -/
def AnswersBelow (s : State) (r : BitVec 8) (bound : Nat) : Prop :=
  ∃ v : Word64, v.toNat < bound ∧
    exec (.rdreg r) s = .next (answered { s with free := s.free + 1 } v [])

theorem answersBelow_of_unspecified {r : BitVec 8} {g : Reg} {mask : Word64} {bound : Nat}
    {s : State} (hr : regOf r = some g) (hv : s.readReg g = .unspecified mask)
    (hm : mask.toNat < bound) : AnswersBelow s r bound := by
  refine ⟨_, ?_, exec_rdreg_unspecified hr hv⟩
  rw [BitVec.toNat_and]
  exact Nat.lt_of_le_of_lt Nat.and_le_right hm

theorem answersBelow_cfg {f : Fin 3} {n k : Nat} {g : CfgField} {mask : Word64} {bound : Nat}
    {s : State} (hn : n = 0x40 + 0x20 * f + k) (hk : k < 32) (hg : cfgFieldOf k = some g)
    (hv : s.cfg[f].readField g = .unspecified mask) (hm : mask.toNat < bound) :
    AnswersBelow s (BitVec.ofNat 8 n) bound :=
  answersBelow_of_unspecified (g := .cfg f g) (hn ▸ regOf_cfgField f hk hg) hv hm

/-- Settles O10: the mask of each unspecified register is below its bound. -/
theorem rdregOfUnspecified : Obligations.RdregOfUnspecified := by
  intro s
  refine ⟨fun h => answersBelow_of_unspecified (g := .ks) rfl (if_neg (Bool.eq_false_iff.mp h))
      (by decide),
    fun h => answersBelow_of_unspecified (g := .cs) rfl (if_neg (Bool.eq_false_iff.mp h))
      (by decide),
    fun i h => answersBelow_of_unspecified (regOf_dict i) (if_neg (Bool.eq_false_iff.mp h))
      (by decide),
    fun f h => ?_⟩
  have hv : ¬ s.cfg[f].valid = true := Bool.eq_false_iff.mp h
  exact ⟨fun hs => answersBelow_cfg (f := f) (k := 1) (g := .hlen) (by omega) (by decide) rfl
      (if_neg (Bool.eq_false_iff.mp (Bool.or_eq_false_iff.mpr ⟨h, hs⟩))) (by decide),
    answersBelow_cfg (f := f) (k := 2) (g := .flags) (by omega) (by decide) rfl (if_neg hv)
      (by decide),
    answersBelow_cfg (f := f) (k := 3) (g := .orig) (by omega) (by decide) rfl (if_neg hv)
      (by decide),
    answersBelow_cfg (f := f) (k := 4) (g := .stored) (by omega) (by decide) rfl (if_neg hv)
      (by decide),
    answersBelow_cfg (f := f) (k := 5) (g := .sum) (by omega) (by decide) rfl (if_neg hv)
      (by decide),
    answersBelow_cfg (f := f) (k := 6) (g := .off) (by omega) (by decide) rfl (if_neg hv)
      (by decide),
    answersBelow_cfg (f := f) (k := 7) (g := .doff) (by omega) (by decide) rfl (if_neg hv)
      (by decide),
    fun i => answersBelow_cfg (f := f) (k := 0x10 + i) (by omega) (by omega) (cfgFieldOf_dict i)
      (if_neg hv) (by decide)⟩

/-- Settles O11: such a number names no register, and ERR decides what the raise does. -/
theorem rdregOfUnassigned : Obligations.RdregOfUnassigned := by
  intro s r hr
  rw [exec_rdreg_unassigned (regOf_unassigned r hr)]
  exact ⟨fun h => congrArg _ (takeError_ready h), fun h => congrArg _ (takeError_latched h)⟩

/-! ### RESET -/

/-- Settles O12: the state RESET leaves is `toReset`, read field by field. -/
theorem resetMeaning : Obligations.ResetMeaning := by
  intro s
  refine ⟨respond 0 [] s.toReset, rfl, rfl, (by decide : State.reset.stat = 0), rfl, rfl, rfl, rfl,
    rfl, rfl, rfl, rfl,
    fun f => ?_, fun f => ?_, rfl, rfl, rfl, rfl, rfl, rfl, rfl, rfl, rfl, rfl⟩
  · simp [State.reset, StreamCfg.atReset]
  · simp [State.reset]

end Sys2Proof.Proofs

/-! PROOFS. What one step can do, said once, and what every step keeps: IN and BLEN (10_state.md R31;
20_memory.md R60) and the invariant of Safety.lean. -/

namespace Sys2Proof.Proofs

open Sys2Proof Sys2Proof.Machine

/-! ### Writes of the datapath commands -/

/-- The part of the invariant that speaks of the decompressor (R26, R27). -/
structure DecompressorOk (s : State) : Prop where
  ocnt_le_cap : s.ocnt.toNat ≤ s.cap.toNat
  esc_rlev : s.esc = true → s.rlev = true

/-- `u` is `s` after writes to the registers of the datapath units alone: nothing that belongs to the
container (IN, OUT, S, CFG and their flags) is written, and the decompressor stays in order. -/
structure DatapathWrite (s u : State) : Prop where
  inp : u.inp = s.inp
  blen : u.blen = s.blen
  streams : u.streams = s.streams
  out : u.out = s.out
  cfg : u.cfg = s.cfg
  scanv : u.scanv = s.scanv
  outv : u.outv = s.outv
  nfr : u.nfr = s.nfr
  decompressor : DecompressorOk s → DecompressorOk u

/-- Such writes and then the command's response (R100). -/
structure DatapathStep (s t : State) : Prop extends DatapathWrite s t where
  resp_err : t.resp.err = t.err
  resp_data : t.resp.data.length ≤ 15

section Datapath

variable {s t u : State} {d : List Byte}

theorem datapathWrite_refl (s : State) : DatapathWrite s s :=
  ⟨rfl, rfl, rfl, rfl, rfl, rfl, rfl, rfl, id⟩

theorem DatapathWrite.trans (h : DatapathWrite s t) (h' : DatapathWrite t u) : DatapathWrite s u :=
  ⟨h'.inp.trans h.inp, h'.blen.trans h.blen, h'.streams.trans h.streams, h'.out.trans h.out,
    h'.cfg.trans h.cfg, h'.scanv.trans h.scanv, h'.outv.trans h.outv, h'.nfr.trans h.nfr,
    fun hd => h'.decompressor (h.decompressor hd)⟩

/-- The registers outside the decompressor's OCNT, CAP, ESC and RLEV, with any values. -/
theorem datapathWrite_registers {ks ksv dpos cs csv dict dv rpos free} : DatapathWrite s
    { s with ks := ks, ksv := ksv, dpos := dpos, cs := cs, csv := csv, dict := dict, dv := dv,
             rpos := rpos, free := free } :=
  ⟨rfl, rfl, rfl, rfl, rfl, rfl, rfl, rfl, fun ⟨hcap, hesc⟩ => ⟨hcap, hesc⟩⟩

/-- The decompressor's registers, with values that are in order. -/
theorem datapathWrite_decompressor {rpos ocnt cap esc rlev}
    (h : DecompressorOk s → ocnt.toNat ≤ cap.toNat ∧ (esc = true → rlev = true)) : DatapathWrite s
    { s with rpos := rpos, ocnt := ocnt, cap := cap, esc := esc, rlev := rlev } :=
  ⟨rfl, rfl, rfl, rfl, rfl, rfl, rfl, rfl, fun hd => ⟨(h hd).1, (h hd).2⟩⟩

theorem DatapathWrite.answer (h : DatapathWrite s u) (v : Word64) (hd : d.length ≤ 15) :
    DatapathStep s (respond v d u) :=
  { h with
    decompressor := fun hs => ⟨(h.decompressor hs).ocnt_le_cap, (h.decompressor hs).esc_rlev⟩
    resp_err := rfl
    resp_data := hd }

theorem DatapathWrite.raise (h : DatapathWrite s u) (e : Error) (hd : d.length ≤ 15) :
    DatapathStep s (takeError e d u) :=
  { h with
    decompressor := fun hs => ⟨(h.decompressor hs).ocnt_le_cap, (h.decompressor hs).esc_rlev⟩
    resp_err := rfl
    resp_data := hd }

theorem datapathStep_refuse (s : State) : DatapathStep s (refuse s) :=
  (datapathWrite_refl s).answer 0 (Nat.zero_le _)

theorem datapathStep_protocol (s : State) : DatapathStep s (takeError .protocol [] s) :=
  (datapathWrite_refl s).raise .protocol (Nat.zero_le _)

/-- A command that is refused in the error state (R281) is a datapath step if its work is. -/
theorem datapathStep_whenReady {f : State → State} (h : s.err = 0 → DatapathStep s (f s)) :
    DatapathStep s (whenReady f s) := by
  by_cases he : s.err = 0
  · rw [whenReady_ready he]
    exact h he
  · rw [whenReady_refused he]
    exact datapathStep_refuse s

/-- A command that needs a valid bit and raises ProtocolError without it (R279). -/
theorem datapathStep_guarded {b : Bool} (h : b = true → DatapathStep s u) :
    DatapathStep s (if b then u else takeError .protocol [] s) := by
  split
  · next hb => exact h hb
  · exact datapathStep_protocol s

/-! ### The decompressor -/

/-- A delivery keeps OCNT within CAP; it ends the decompression where it does not fit, which needs
that no escape is pending. -/
theorem datapathStep_deliver (val : State → Word64) (hw : DatapathWrite s u) (hesc : u.esc = false)
    (hd : d.length ≤ 15) : DatapathStep s (deliver val d u) := by
  by_cases hroom : d.length ≤ u.cap.toNat - u.ocnt.toNat
  · rw [deliver_fits hroom]
    refine (hw.trans (datapathWrite_decompressor fun ho => ⟨?_, ho.esc_rlev⟩)).answer _ hd
    have hcap := ho.ocnt_le_cap
    have hlt := u.cap.isLt
    rw [BitVec.toNat_add, BitVec.toNat_ofNat]
    omega
  · rw [deliver_full (Nat.not_le.mp hroom)]
    refine (hw.trans (datapathWrite_decompressor fun _ => ⟨Nat.le_refl _, ?_⟩)).raise _ ?_
    · simp [hesc]
    · rw [List.length_take]
      omega

theorem rleBeat_refused {b : Byte} (h : s.err ≠ 0) : rleBeat b s = refuse s :=
  whenReady_refused h

/-- A byte with no decompression in progress (R197, R279). -/
theorem rleBeat_inactive {b : Byte} (h : s.err = 0) (hr : s.rlev = false) :
    rleBeat b s = takeError .protocol [] s :=
  (whenReady_ready h).trans (if_neg (Bool.eq_false_iff.mp hr))

theorem datapathStep_rleBeat (b : Byte) (s : State) : DatapathStep s (rleBeat b s) := by
  by_cases he : s.err = 0
  case neg =>
    rw [rleBeat_refused he]
    exact datapathStep_refuse s
  cases hr : s.rlev with
  | false =>
    rw [rleBeat_inactive he hr]
    exact datapathStep_protocol s
  | true =>
    have hcount : DatapathWrite s s.countRpos := datapathWrite_registers
    have hclear : DatapathWrite s { s.countRpos with esc := false } :=
      hcount.trans (datapathWrite_decompressor fun ho => ⟨ho.ocnt_le_cap, nofun⟩)
    obtain ⟨-, -, h⟩ | ⟨hesc, -, h⟩ | ⟨-, -, -, -, h⟩ | ⟨-, -, h⟩ := rleBeat_cases (b := b) he hr
      <;> rw [h]
    · have hopen : DatapathWrite s { s.countRpos with esc := true } :=
        hcount.trans (datapathWrite_decompressor fun ho => ⟨ho.ocnt_le_cap, fun _ => hr⟩)
      exact hopen.answer 0 (Nat.zero_le _)
    · exact datapathStep_deliver _ hcount hesc (by simp)
    · exact hclear.raise _ (Nat.zero_le _)
    · exact datapathStep_deliver _ hclear rfl (tokenOutput_length s.dict b)

/-- The sentinel's beat delivers nothing: it opens an escape, or is the second byte of a run of count
0 (R189). -/
theorem rleBeat_sentinel_data (s : State) : (rleBeat Config.sentinel s).resp.data = [] := by
  by_cases he : s.err = 0
  case neg => rw [rleBeat_refused he, refuse_resp]
  cases hr : s.rlev with
  | false => rw [rleBeat_inactive he hr, takeError_resp]
  | true =>
    obtain ⟨-, -, h⟩ | ⟨-, hne, -⟩ | ⟨-, -, hrun, -⟩ | ⟨-, -, h⟩ :=
      rleBeat_cases (b := Config.sentinel) he hr
    · rw [h]; rfl
    · exact absurd rfl hne
    · exact absurd hrun (by decide)
    · have hout : tokenOutput s.dict Config.sentinel = [] := rfl
      rw [h, hout, deliver_fits (Nat.zero_le _)]
      rfl

/-- The two beats of an escape answer as the second does. -/
theorem rleBeats_sentinel (c : Byte) (s : State) :
    rleBeats Config.sentinel c s = rleBeat c (rleBeat Config.sentinel s) := by
  simp only [rleBeats, rleBeat_sentinel_data, List.nil_append]

theorem datapathStep_rleBeats_sentinel (c : Byte) (s : State) :
    DatapathStep s (rleBeats Config.sentinel c s) := by
  rw [rleBeats_sentinel]
  have hfirst := datapathStep_rleBeat Config.sentinel s
  have hsecond := datapathStep_rleBeat c (rleBeat Config.sentinel s)
  exact { hsecond with toDatapathWrite := hfirst.trans hsecond.toDatapathWrite }

theorem datapathStep_rleFinish (te : TrailingEscape) (s : State) :
    DatapathStep s (rleFinish te s) := by
  refine datapathStep_whenReady fun _ => datapathStep_guarded fun _ => ?_
  split
  case isFalse hesc =>
    have hstop : DatapathWrite s { s with rlev := false } :=
      datapathWrite_decompressor fun ho => ⟨ho.ocnt_le_cap, fun h => absurd h hesc⟩
    exact hstop.answer _ (Nat.zero_le _)
  case isTrue =>
    have hstop : DatapathWrite s { s with rlev := false, esc := false } :=
      datapathWrite_decompressor fun ho => ⟨ho.ocnt_le_cap, nofun⟩
    cases te with
    | error => exact hstop.raise _ (Nat.zero_le _)
    | literal => exact datapathStep_deliver _ hstop rfl (by simp)

/-! ### The other datapath commands -/

theorem datapathStep_readRegister (r : BitVec 8) (s : State) :
    DatapathStep s (readRegister r s) := by
  obtain ⟨-, h⟩ | ⟨_, v, -, -, h⟩ | ⟨_, mask, -, -, h⟩ := readRegister_cases r s <;> rw [h]
  · exact datapathStep_protocol s
  · exact (datapathWrite_refl s).answer v (Nat.zero_le _)
  · exact DatapathWrite.answer (u := s.drawn) datapathWrite_registers _ (Nat.zero_le _)

/-- A ready command that writes registers outside the decompressor and answers at most 15 bytes. -/
theorem datapathStep_registers {v : Word64} {ks ksv dpos cs csv dict dv rpos free}
    (hd : d.length ≤ 15) : DatapathStep s (respond v d
    { s with ks := ks, ksv := ksv, dpos := dpos, cs := cs, csv := csv, dict := dict, dv := dv,
             rpos := rpos, free := free }) :=
  datapathWrite_registers.answer v hd

end Datapath

/-! ### One step -/

/-- What an instruction can make of `s`. -/
inductive Transition (s : State) : State → Prop where
  | datapath {t} (h : DatapathStep s t) : Transition s t
  | reset : Transition s (respond 0 [] s.toReset)
  | header {f : Fin 3} {off c} (v : Word64)
      (h : headerAt Config.magic s.free f s.inp s.blen.toNat off = .ok c) :
      Transition s (respond v [] { s.setCfg f c with scanv := false, outv := false }.drawn)
  | scanFailed (e : Error) : Transition s (takeError e [] (recordNoScan (beginScan s)).drawn)
  | scanned {max frames} (v : Word64)
      (h : analyzeChain Config.magic s.free s.inp s.blen.toNat max = .ok frames) :
      Transition s (respond v [] (recordScan frames (beginScan s)).drawn)
  | decodeChainFailed (e : Error) :
      Transition s (takeError e [] (endDecode (recordNoScan (beginDecode s))))
  | decodeFailed {max frames} (e : Error)
      (h : analyzeChain Config.magic s.free s.inp s.blen.toNat max = .ok frames) :
      Transition s (takeError e [] (endDecode (recordScan frames (beginDecode s))))
  | decoded {max frames} (bytes : List Byte)
      (h : analyzeChain Config.magic s.free s.inp s.blen.toNat max = .ok frames) :
      Transition s (finishDecode bytes (recordScan frames (beginDecode s)))

section Inversion

variable {s t : State}

theorem transition_hdrParse {f : Fin 3} {off : Word64} (h : hdrParse f off s = .next t) :
    Transition s t := by
  unfold hdrParse at h
  split at h
  case isFalse => exact Host.Outcome.next.inj h ▸ .datapath (datapathStep_refuse s)
  split at h
  · cases h
  · next c hc => exact Host.Outcome.next.inj h ▸ .header _ hc

theorem transition_execChainScan {m : Byte} (h : execChainScan m s = .next t) :
    Transition s t := by
  unfold execChainScan at h
  split at h
  case isFalse => exact Host.Outcome.next.inj h ▸ .datapath (datapathStep_refuse s)
  split at h
  · exact Host.Outcome.next.inj h ▸ .datapath (datapathStep_protocol s)
  split at h
  · cases h
  · next e _ => exact Host.Outcome.next.inj h ▸ .scanFailed e
  · next frames hc => exact Host.Outcome.next.inj h ▸ .scanned _ hc

/-- A DECODE that fails and completes has raised an error. -/
theorem failDecode_next {stop : Stop} (h : failDecode stop s = .next t) :
    ∃ e, t = takeError e [] (endDecode s) := by
  cases stop with
  | readOutside => cases h
  | raised e => exact ⟨e, (Host.Outcome.next.inj h).symm⟩

theorem transition_decodeWith {te : TrailingEscape} {max : Nat} {key : Word16}
    (h : decodeWith te max key s = .next t) : Transition s t := by
  by_cases he : s.err = 0
  case neg =>
    rw [decodeWith_refused he] at h
    exact Host.Outcome.next.inj h ▸ .datapath (datapathStep_refuse s)
  rw [decodeWith_ready he] at h
  cases hc : analyzeChain Config.magic s.free s.inp s.blen.toNat max with
  | error stop =>
    rw [runDecode_chain_error (s := beginDecode s) hc] at h
    exact Host.Outcome.next.inj h ▸ .decodeChainFailed _
  | ok frames =>
    cases hf : decodeFrames te s.inp s.blen.toNat key frames with
    | error stop =>
      rw [runDecode_frame_error (s := beginDecode s) hc hf] at h
      obtain ⟨e, rfl⟩ := failDecode_next h
      exact .decodeFailed e hc
    | ok streams =>
      cases hj : combine streams with
      | error stop =>
        rw [runDecode_rejoin_error (s := beginDecode s) hc hf hj] at h
        obtain ⟨e, rfl⟩ := failDecode_next h
        exact .decodeFailed e hc
      | ok bytes =>
        rw [runDecode_ok (s := beginDecode s) hc hf hj] at h
        exact Host.Outcome.next.inj h ▸ .decoded bytes hc

/-- An instruction whose meaning is `.next u` with `u` a datapath step. -/
theorem transition_of_datapathStep {u : State} (hu : DatapathStep s u)
    (h : (Host.Outcome.next u : Host.Outcome State Fault Refusal) = .next t) : Transition s t :=
  .datapath (Host.Outcome.next.inj h ▸ hu)

theorem transition_exec {i : Instr} (h : exec i s = .next t) : Transition s t := by
  cases i with
  | nop => exact transition_of_datapathStep (datapathStep_refuse s) h
  | rdreg r => exact transition_of_datapathStep (datapathStep_readRegister r s) h
  | reset => exact Host.Outcome.next.inj h ▸ .reset
  | ksLoad k =>
    refine transition_of_datapathStep (datapathStep_whenReady fun _ => ?_) h
    exact datapathStep_registers (Nat.zero_le _)
  | ksStep =>
    exact transition_of_datapathStep (datapathStep_whenReady fun _ =>
      datapathStep_guarded fun _ => datapathStep_registers (Nat.zero_le _)) h
  | decStart key =>
    refine transition_of_datapathStep (datapathStep_whenReady fun _ => ?_) h
    exact datapathStep_registers (Nat.zero_le _)
  | decByte b =>
    refine transition_of_datapathStep (datapathStep_whenReady fun _ =>
      datapathStep_guarded fun _ => ?_) h
    split
    · exact datapathStep_registers (by simp)
    · exact datapathStep_registers (by simp)
  | csClear =>
    refine transition_of_datapathStep (datapathStep_whenReady fun _ => ?_) h
    exact datapathStep_registers (Nat.zero_le _)
  | csByte b =>
    exact transition_of_datapathStep (datapathStep_whenReady fun _ =>
      datapathStep_guarded fun _ => datapathStep_registers (Nat.zero_le _)) h
  | csVerify x =>
    refine transition_of_datapathStep (datapathStep_whenReady fun _ =>
      datapathStep_guarded fun _ => ?_) h
    split
    · exact datapathStep_refuse s
    · exact (datapathWrite_refl s).raise _ (Nat.zero_le _)
  | rleDict n v =>
    refine transition_of_datapathStep (datapathStep_whenReady fun _ => ?_) h
    split
    · exact datapathStep_protocol s
    · exact datapathStep_registers (Nat.zero_le _)
  | rleStart cap =>
    have hstart : DatapathWrite s
        { s with cap := cap, rpos := 0, ocnt := 0, esc := false, rlev := true } :=
      datapathWrite_decompressor fun _ => ⟨Nat.zero_le _, nofun⟩
    exact transition_of_datapathStep
      (datapathStep_whenReady fun _ => hstart.answer 0 (Nat.zero_le _)) h
  | rleByte b => exact transition_of_datapathStep (datapathStep_rleBeat b s) h
  | rleEnd => exact transition_of_datapathStep (datapathStep_rleFinish _ s) h
  | fj2Beat b0 b1 b2 e =>
    exact transition_of_datapathStep
      (datapathStep_whenReady fun _ => (datapathWrite_refl s).answer 0 (by simp [join2])) h
  | fj3Beat f0 f1 f2 e sgn =>
    exact transition_of_datapathStep
      (datapathStep_whenReady fun _ => (datapathWrite_refl s).answer 0 (by simp [join3])) h
  | hdrParse0 off => exact transition_hdrParse h
  | hdrParse1 off => exact transition_hdrParse h
  | hdrParse2 off => exact transition_hdrParse h
  | chainScan m => exact transition_execChainScan h
  | decode key => exact transition_decodeWith h
  | lit b => exact transition_of_datapathStep (datapathStep_rleBeat b s) h
  | escLit => exact transition_of_datapathStep (datapathStep_rleBeats_sentinel _ s) h
  | escRun count index => exact transition_of_datapathStep (datapathStep_rleBeats_sentinel _ s) h

/-- A step takes something off the port and does no more, or then makes a transition. -/
theorem step_next (h : step s = .next t) :
    ∃ port, t = { s with port := port } ∨ Transition { s with port := port } t := by
  obtain ⟨-, hf⟩ | ⟨_, rest, _, -, -, hf⟩ | ⟨_, rest, _, -, -, hf⟩ | ⟨rest, -, hf⟩ |
    ⟨_, _, _, _, _, -, -, hf⟩ | ⟨_, _, _, _, -, -, hf⟩ := fetch_cases s <;>
    simp only [step, hf] at h
  · exact ⟨s.port, .inl (Host.Outcome.next.inj h).symm⟩
  · exact ⟨_, .inr (transition_exec h)⟩
  · exact ⟨_, .inr (transition_of_datapathStep (datapathStep_protocol _) h)⟩
  · exact ⟨rest, .inl (Host.Outcome.next.inj h).symm⟩
  · exact ⟨_, .inr (transition_exec h)⟩
  · exact ⟨_, .inr (transition_exec h)⟩

theorem transition_keeps_input (h : Transition s t) : t.inp = s.inp ∧ t.blen = s.blen := by
  cases h with
  | datapath h => exact ⟨h.inp, h.blen⟩
  | reset => simp
  | header => simp
  | scanFailed => simp
  | scanned => simp
  | decodeChainFailed => simp
  | decodeFailed => simp
  | decoded => simp [finishDecode]

end Inversion

/-- Settles O60: no transition writes IN or BLEN, and taking a request off the port does not. -/
theorem inputNeverWritten : Obligations.InputNeverWritten := by
  intro s t h
  obtain ⟨port, rfl | ht⟩ := step_next h
  · exact ⟨rfl, rfl⟩
  · exact transition_keeps_input (s := { s with port := port }) ht

/-! ### The records of an accepted chain -/

section Records

variable {magic : Magic} {draw f off room max blen : Nat} {inp : Memory}

/-- R37, R127: a record as it is read from IN. -/
theorem headerAt_facts {c : StreamCfg} (h : headerAt magic draw f inp blen off = .ok c) :
    c.off = BitVec.ofNat 64 off ∧ c.flags &&& 0x03 = 0 ∧
      (c.valid = true → c.hlen.toNat = 20 + 16 * c.comp.toNat + 2 * c.cks.toNat) := by
  obtain ⟨bytes, length, -, -, hok⟩ := headerAt_ok magic draw f inp blen off
  obtain rfl := Except.ok.inj (hok.symm.trans h)
  obtain ⟨hflags, hlen⟩ := parseHeader_facts magic draw f bytes length
  exact ⟨rfl, hflags, fun hv => (hlen hv).1⟩

/-- R127, R214, R216: a valid header at a multiple of 4096, its data region inside IN. -/
theorem headerAt_frameOk {c : StreamCfg} (hb : blen < 2 ^ 64) (ha : off % 4096 = 0)
    (h : headerAt magic draw f inp blen off = .ok c) (hv : c.valid = true)
    (hend : dataOffset off c + c.stored.toNat ≤ blen) : FrameOk blen c := by
  obtain ⟨hoff, -, hlen⟩ := headerAt_facts h
  have hdoff : c.doff.toNat = dataOffset off c := headerAt_doff h (by omega)
  have hnext : dataOffset off c = off + 4096 := by
    have hcomp := Bool.toNat_le c.comp
    have hcks := Bool.toNat_le c.cks
    exact alignUp_next ha (by rw [hlen hv]; omega) (by rw [hlen hv]; omega)
  have hoff' : c.off.toNat = off := by
    rw [hoff, BitVec.toNat_ofNat, Nat.mod_eq_of_lt (by omega)]
  exact ⟨hv, hlen hv, by rw [hoff', ha], by rw [hdoff, hnext, hoff'], by rw [hdoff]; exact hend⟩

theorem chainFrom_records (hb : blen < 2 ^ 64) (ha : off % 4096 = 0) {frames : List StreamCfg}
    (h : chainFrom magic draw inp blen room f off = .ok frames) :
    ∀ c ∈ frames, FrameOk blen c ∧ c.flags &&& 0x03 = 0 := by
  induction room generalizing f off frames with
  | zero => simp [chainFrom] at h
  | succ room ih =>
    obtain ⟨room', c, hroom, hc, hv, hend, hrest⟩ := chainFrom_ok h
    obtain rfl := Nat.succ.inj hroom
    have hfirst := And.intro (headerAt_frameOk hb ha hc hv hend) (headerAt_facts hc).2.1
    obtain ⟨-, rfl⟩ | ⟨-, -, -, -, cs, hcs, rfl⟩ := hrest
    · exact List.forall_mem_singleton.mpr hfirst
    · exact List.forall_mem_cons.mpr ⟨hfirst, ih (alignUp_mod _) hcs⟩

theorem analyzeChain_records (hb : blen < 2 ^ 64) {frames : List StreamCfg}
    (h : analyzeChain magic draw inp blen max = .ok frames) :
    ∀ c ∈ frames, FrameOk blen c ∧ c.flags &&& 0x03 = 0 :=
  chainFrom_records hb rfl (analyzeChain_ok h).1

end Records

/-! ### The invariant holds at reset, and each operation keeps it -/

/-- Settles O57: the buffers are empty, no flag is set, every record is the reset one. -/
theorem invariantAtReset : Obligations.InvariantAtReset where
  inp_wf := rfl
  out_wf := rfl
  streams_empty := rfl
  ocnt_le_cap := Nat.le_refl _
  esc_rlev := nofun
  flags_reserved := by decide
  scan_frames := nofun
  outv_scanv := nofun
  resp_err := rfl
  resp_data := Nat.zero_le _

section Operations

variable {s t : State} {d : List Byte}

theorem invariant_port (h : Invariant s) (port : List Request) :
    Invariant { s with port := port } := { h with }

theorem invariant_drawn (h : Invariant s) : Invariant s.drawn := { h with }

theorem invariant_respond (h : Invariant s) (v : Word64) (hd : d.length ≤ 15) :
    Invariant (respond v d s) :=
  { h with resp_err := rfl, resp_data := hd }

theorem invariant_takeError (h : Invariant s) (e : Error) : Invariant (takeError e [] s) :=
  { h with resp_err := rfl, resp_data := Nat.zero_le _ }

theorem invariant_datapathStep (h : Invariant s) (hd : DatapathStep s t) : Invariant t where
  inp_wf := hd.inp ▸ h.inp_wf
  out_wf := hd.out ▸ h.out_wf
  streams_empty := hd.streams ▸ h.streams_empty
  ocnt_le_cap := (hd.decompressor ⟨h.ocnt_le_cap, h.esc_rlev⟩).ocnt_le_cap
  esc_rlev := (hd.decompressor ⟨h.ocnt_le_cap, h.esc_rlev⟩).esc_rlev
  flags_reserved := hd.cfg ▸ h.flags_reserved
  scan_frames := by rw [hd.scanv, hd.nfr, hd.cfg, hd.blen]; exact h.scan_frames
  outv_scanv := by rw [hd.outv, hd.scanv]; exact h.outv_scanv
  resp_err := hd.resp_err
  resp_data := hd.resp_data

/-- RESET is power-on reset but for IN and BLEN, which it keeps (R41, R261). -/
theorem invariant_toReset (h : Invariant s) : Invariant (respond 0 [] s.toReset) :=
  { (invariantAtReset : Invariant State.reset) with
    inp_wf := h.inp_wf
    scan_frames := nofun }

/-- A record parsed into a slot: the scan is no longer valid, and the slot's reserved bits are 0. -/
theorem invariant_setCfg (h : Invariant s) (f : Fin 3) {c : StreamCfg}
    (hc : c.flags &&& 0x03 = 0) :
    Invariant { s.setCfg f c with scanv := false, outv := false } :=
  { h with
    flags_reserved := fun g => by
      show (s.setCfg f c).cfg[g].flags &&& 0x03 = 0
      rw [setCfg_getElem]
      split
      · exact hc
      · exact h.flags_reserved g
    scan_frames := nofun
    outv_scanv := nofun }

theorem invariant_beginScan (h : Invariant s) : Invariant (beginScan s) :=
  { h with scan_frames := nofun, outv_scanv := nofun }

theorem invariant_resetDatapath (h : Invariant s) : Invariant s.resetDatapath :=
  { h with ocnt_le_cap := Nat.le_refl _, esc_rlev := nofun }

theorem invariant_beginDecode (h : Invariant s) : Invariant (beginDecode s) :=
  { invariant_beginScan (invariant_resetDatapath h) with }

theorem invariant_endDecode (h : Invariant s) : Invariant (endDecode s) :=
  { invariant_resetDatapath h with streams_empty := rfl }

/-- Records of which nothing is specified still have the reserved bits of FLAGS at 0 (R37). -/
theorem invariant_recordNoScan (h : Invariant s) (hs : s.scanv = false) :
    Invariant (recordNoScan s) :=
  { h with
    flags_reserved := fun f => by
      simp only [recordNoScan_cfg, Fin.getElem_fin, Vector.getElem_ofFn]
      exact flagsOfByte_reserved _
    scan_frames := by simp [hs] }

/-- R222: the records of an accepted chain are legal, and the slots past them keep their FLAGS. -/
theorem invariant_recordScan {draw max : Nat} {frames : List StreamCfg} (h : Invariant s)
    (hc : analyzeChain Config.magic draw s.inp s.blen.toNat max = .ok frames) :
    Invariant (recordScan frames s) :=
  have hrec := analyzeChain_records s.blen.isLt hc
  have ⟨hpos, hmax⟩ := analyzeChain_length hc
  have hnfr : (recordScan frames s).nfr.toNat = frames.length := by
    rw [recordScan_nfr, BitVec.toNat_ofNat]
    omega
  { h with
    flags_reserved := fun f => by
      rw [recordScan_cfg, scannedCfg_getElem]
      by_cases hf : f.val < frames.length
      · rw [List.getD_eq_getElem _ _ hf]
        exact (hrec _ (List.getElem_mem hf)).2
      · rw [List.getD_eq_default _ _ (Nat.not_lt.mp hf)]
        exact h.flags_reserved f
    scan_frames := fun _ => by
      rw [hnfr]
      refine ⟨hpos, fun f hf => ?_⟩
      rw [recordScan_cfg, scannedCfg_getElem, List.getD_eq_getElem _ _ hf]
      exact (hrec _ (List.getElem_mem hf)).1
    outv_scanv := fun _ => rfl }

theorem invariant_finishDecode (h : Invariant s) (hs : s.scanv = true) (bytes : List Byte) :
    Invariant (finishDecode bytes s) :=
  { invariant_endDecode h with
    out_wf := writeBytes_wf 0 bytes rfl
    outv_scanv := fun _ => hs
    resp_err := rfl
    resp_data := Nat.zero_le _ }

theorem transition_keeps_invariant (h : Invariant s) (ht : Transition s t) : Invariant t := by
  have hscan := invariant_beginScan h
  have hdecode := invariant_beginDecode h
  cases ht with
  | datapath hd => exact invariant_datapathStep h hd
  | reset => exact invariant_toReset h
  | header v hc =>
    exact invariant_respond (invariant_drawn (invariant_setCfg h _ (headerAt_facts hc).2.1)) v
      (Nat.zero_le _)
  | scanFailed e =>
    exact invariant_takeError (invariant_drawn (invariant_recordNoScan hscan rfl)) e
  | scanned v hc =>
    exact invariant_respond (invariant_drawn (invariant_recordScan hscan hc)) v (Nat.zero_le _)
  | decodeChainFailed e =>
    exact invariant_takeError (invariant_endDecode (invariant_recordNoScan hdecode rfl)) e
  | decodeFailed e hc =>
    exact invariant_takeError (invariant_endDecode (invariant_recordScan hdecode hc)) e
  | decoded bytes hc => exact invariant_finishDecode (invariant_recordScan hdecode hc) rfl bytes

end Operations

/-- Settles O58: taking a request off the port keeps the invariant, and so does every transition. -/
theorem stepKeepsInvariant : Obligations.StepKeepsInvariant := by
  intro s t hs h
  obtain ⟨port, rfl | ht⟩ := step_next h
  · exact invariant_port hs port
  · exact transition_keeps_invariant (invariant_port hs port) ht

end Sys2Proof.Proofs

/-! PROOFS. Padding is never read: a decode depends on the headers and the data regions of its chain alone
(20_memory.md R74; 40_header_parser.md R129). -/

namespace Sys2Proof.Proofs

open Sys2Proof Sys2Proof.Machine

/-! ### A valid header is a function of the bytes below its HLEN -/

section Parser

variable {magic : Magic} {draw f length length' : Nat} {bytes bytes' : List Byte} {c : StreamCfg}

theorem getD_congr {j : Nat} (h : bytes[j]? = bytes'[j]?) : bytes'.getD j 0 = bytes.getD j 0 := by
  rw [List.getD_eq_getElem?_getD, List.getD_eq_getElem?_getD, h]

theorem headerWord64_congr {a : Nat} (hb : ∀ j, j < a + 8 → bytes[j]? = bytes'[j]?) :
    headerWord64 bytes' a = headerWord64 bytes a := by
  have hfield : (bytes'.drop a).take 8 = (bytes.drop a).take 8 := by
    apply List.ext_getElem?
    intro j
    rw [List.getElem?_take, List.getElem?_take]
    split
    · rw [List.getElem?_drop, List.getElem?_drop, hb _ (by omega)]
    · rfl
  rw [headerWord64, headerWord64, hfield]

theorem headerDict_congr (hb : ∀ j, j < 36 → bytes[j]? = bytes'[j]?) :
    headerDict bytes' = headerDict bytes := by
  unfold headerDict
  congr 1
  funext i
  exact getD_congr (hb _ (Nat.add_lt_add_left i.isLt 20))

theorem fixedPart_congr (hb : ∀ j, j < 20 → bytes[j]? = bytes'[j]?) :
    fixedPart draw f bytes' = fixedPart draw f bytes := by
  unfold fixedPart
  rw [getD_congr (hb 3 (by omega)), headerWord64_congr (a := 4) fun j hj => hb j (by omega),
    headerWord64_congr (a := 12) fun j hj => hb j (by omega)]

theorem parseSum_congr (hv : c.valid = false) (h36 : c.hlen.toNat ≤ 36)
    (hok : (parseSum bytes length c).valid = true)
    (hl : (parseSum bytes length c).hlen.toNat ≤ length')
    (hb : ∀ j, j < (parseSum bytes length c).hlen.toNat → bytes[j]? = bytes'[j]?) :
    parseSum bytes' length' c = parseSum bytes length c := by
  cases hk : c.cks with
  | false => rw [parseSum_none hk, parseSum_none hk]
  | true =>
    by_cases hs : length < c.hlen.toNat + 2
    · simp [parseSum_short hk hs, hv] at hok
    have hread := parseSum_read (bytes := bytes) hk (Nat.not_lt.mp hs)
    have hhlen : (parseSum bytes length c).hlen.toNat = c.hlen.toNat + 2 := by
      simp only [hread, BitVec.toNat_ofNat]
      omega
    rw [hhlen] at hl hb
    rw [hread, parseSum_read hk hl, getD_congr (hb c.hlen.toNat (by omega)),
      getD_congr (hb (c.hlen.toNat + 1) (by omega))]

theorem parseDict_congr (hv : c.valid = false) (hh : c.hlen.toNat = 20)
    (hok : (parseDict bytes length c).valid = true)
    (hl : (parseDict bytes length c).hlen.toNat ≤ length')
    (hb : ∀ j, j < (parseDict bytes length c).hlen.toNat → bytes[j]? = bytes'[j]?) :
    parseDict bytes' length' c = parseDict bytes length c := by
  cases hc : c.comp with
  | false =>
    rw [parseDict_none hc] at hok hl hb ⊢
    rw [parseDict_none hc]
    exact parseSum_congr hv (by omega) hok hl hb
  | true =>
    by_cases hd : length < 36
    · simp [parseDict_short hc hd, hv] at hok
    rw [parseDict_read hc (Nat.not_lt.mp hd)] at hok hl hb ⊢
    have hhlen := (parseSum_facts (c := { c with dict := headerDict bytes, hlen := 36 }) bytes hv
      (Nat.le_refl 36) (Nat.not_lt.mp hd)).2 hok |>.1
    have h36 : 36 ≤ (parseSum bytes length { c with dict := headerDict bytes, hlen := 36 }).hlen.toNat :=
      hhlen ▸ Nat.le_add_right 36 _
    rw [parseDict_read hc (h36.trans hl), headerDict_congr fun j hj => hb j (by omega)]
    exact parseSum_congr hv (Nat.le_refl 36) hok hl hb

/-- R121, R122: only a header of 20 bytes with the right magic is valid. -/
theorem parseHeader_valid (h : (parseHeader magic draw f bytes length).valid = true) :
    20 ≤ length ∧ bytes.getD 0 0 = magic.m0 ∧ bytes.getD 1 0 = magic.m1 ∧
      bytes.getD 2 0 = magic.m2 := by
  by_cases hl : length < 20
  · simp [parseHeader_short hl, blankCfg, StreamCfg.atReset] at h
  by_cases hm : bytes.getD 0 0 ≠ magic.m0 ∨ bytes.getD 1 0 ≠ magic.m1 ∨ bytes.getD 2 0 ≠ magic.m2
  · simp [parseHeader_badMagic hm, blankCfg, StreamCfg.atReset] at h
  simp only [ne_eq, not_or, not_not] at hm
  exact ⟨Nat.not_lt.mp hl, hm⟩

/-- R129 (f): bytes beyond HLEN are never read. -/
theorem parseHeader_congr (hok : (parseHeader magic draw f bytes length).valid = true)
    (hl : (parseHeader magic draw f bytes length).hlen.toNat ≤ length')
    (hb : ∀ j, j < (parseHeader magic draw f bytes length).hlen.toNat → bytes[j]? = bytes'[j]?) :
    parseHeader magic draw f bytes' length' = parseHeader magic draw f bytes length := by
  obtain ⟨hlen, m0, m1, m2⟩ := parseHeader_valid hok
  have hhlen := (parseHeader_facts magic draw f bytes length).2 hok |>.1
  have hfixed : ∀ j, j < 20 → bytes[j]? = bytes'[j]? := fun j hj => hb j (by omega)
  have m0' := (getD_congr (hfixed 0 (by omega))).trans m0
  have m1' := (getD_congr (hfixed 1 (by omega))).trans m1
  have m2' := (getD_congr (hfixed 2 (by omega))).trans m2
  rw [parseHeader_long (by omega) m0' m1' m2', fixedPart_congr hfixed]
  rw [parseHeader_long hlen m0 m1 m2] at hok hl hb ⊢
  exact parseDict_congr rfl rfl hok hl hb

end Parser

/-! ### A good chain is a function of its headers, and its streams of the data regions -/

section Chain

variable {magic : Magic} {te : TrailingEscape} {draw f off room max blen : Nat} {inp inp' : Memory}
  {key : Word16} {c : StreamCfg} {frames : List StreamCfg}

theorem headerAt_congr (h : headerAt magic draw f inp blen off = .ok c) (hv : c.valid = true)
    (hr : ∀ a, off ≤ a → a < off + c.hlen.toNat → inp'.read a = inp.read a) :
    headerAt magic draw f inp' blen off = .ok c := by
  obtain ⟨bytes, length, hbytes, hlength, hok⟩ := headerAt_ok magic draw f inp blen off
  obtain ⟨bytes', _, hbytes', rfl, hok'⟩ := headerAt_ok magic draw f inp' blen off
  rw [← hlength] at hbytes' hok'
  obtain rfl := Except.ok.inj (hok.symm.trans h)
  have hparse : parseHeader magic draw f bytes' length = parseHeader magic draw f bytes length := by
    refine parseHeader_congr hv ((parseHeader_facts magic draw f bytes length).2 hv).2 fun j hj => ?_
    rw [hbytes, hbytes', readRange_getElem?, readRange_getElem?, hr (off + j) (by omega) (by simpa)]
  rw [hok', hparse]

/-- A frame whose data region ends inside IN has an OFF that fits its register. -/
theorem headerAt_off (hb : blen < 2 ^ 64) (h : headerAt magic draw f inp blen off = .ok c)
    (hend : dataOffset off c + c.stored.toNat ≤ blen) : c.off.toNat = off := by
  have hle : off + c.hlen.toNat ≤ dataOffset off c := le_alignUp _
  rw [(headerAt_facts h).1, BitVec.toNat_ofNat, Nat.mod_eq_of_lt (by omega)]

theorem chainFrom_congr (hb : blen < 2 ^ 64)
    (h : chainFrom magic draw inp blen room f off = .ok frames)
    (hr : ∀ c ∈ frames, ∀ a, c.off.toNat ≤ a → a < c.off.toNat + c.hlen.toNat →
      inp'.read a = inp.read a) :
    chainFrom magic draw inp' blen room f off = .ok frames := by
  induction room generalizing f off frames with
  | zero => simp [chainFrom] at h
  | succ room ih =>
    obtain ⟨room', c, hroom, hc, hv, hend, hrest⟩ := chainFrom_ok h
    obtain rfl := Nat.succ.inj hroom
    have hhead (hmem : c ∈ frames) : headerAt magic draw f inp' blen off = .ok c := by
      refine headerAt_congr hc hv ?_
      simpa only [headerAt_off hb hc hend] using hr c hmem
    obtain ⟨hcont, rfl⟩ | ⟨hcont, hflt, hroom, hnext, cs, hcs, rfl⟩ := hrest
    · exact chainFrom_last (hhead List.mem_cons_self) hv hend hcont
    · exact chainFrom_next (hhead List.mem_cons_self) hv hend hcont hflt hroom hnext
        (ih hcs fun d hd => hr d (List.mem_cons_of_mem _ hd))

theorem analyzeChain_congr (hb : blen < 2 ^ 64)
    (h : analyzeChain magic draw inp blen max = .ok frames)
    (hr : ∀ c ∈ frames, ∀ a, c.off.toNat ≤ a → a < c.off.toNat + c.hlen.toNat →
      inp'.read a = inp.read a) :
    analyzeChain magic draw inp' blen max = .ok frames := by
  obtain ⟨hchain, hflags⟩ := analyzeChain_ok h
  simp only [analyzeChain, chainFrom_congr hb hchain hr, hflags, if_true]

theorem decodeFrame_congr (hr : ∀ a, c.doff.toNat ≤ a → a < c.doff.toNat + c.stored.toNat →
    inp'.read a = inp.read a) :
    decodeFrame te inp' blen key c = decodeFrame te inp blen key c := by
  have hread : memRead inp' blen c.doff.toNat c.stored.toNat =
      memRead inp blen c.doff.toNat c.stored.toNat := by
    rw [memRead, memRead, readRange_congr hr]
  rw [decodeFrame, decodeFrame, hread]

theorem decodeFrames_congr (hr : ∀ c ∈ frames, ∀ a, c.doff.toNat ≤ a →
    a < c.doff.toNat + c.stored.toNat → inp'.read a = inp.read a) :
    decodeFrames te inp' blen key frames = decodeFrames te inp blen key frames := by
  induction frames with
  | nil => rfl
  | cons c cs ih =>
    obtain ⟨hc, hcs⟩ := List.forall_mem_cons.mp hr
    rw [decodeFrames, decodeFrames, decodeFrame_congr hc, ih hcs]

end Chain

/-- Settles O56: the other input has the same chain, and its frames decode alike. -/
theorem paddingNeverRead : Obligations.PaddingNeverRead := by
  intro magic te draw blen max inp inp' key frames hb _ hchain hr
  have hchain' := analyzeChain_congr hb hchain fun c hc a h₁ h₂ => hr c hc a (.inl ⟨h₁, h₂⟩)
  have hframes := decodeFrames_congr (te := te) (blen := blen) (key := key)
    fun c hc a h₁ h₂ => hr c hc a (.inr ⟨h₁, h₂⟩)
  simp only [decode, hchain, hchain', hframes]

end Sys2Proof.Proofs

/-! PROOFS. Encoding and decoding are inverse to each other, for command words (30_encoding.md R97 to
R99) and for tokens (R94 to R96, R101). -/

namespace Sys2Proof.Proofs

open Sys2Proof Sys2Proof.Machine

/-! ### Fields of the operand field -/

section Fields

variable {n m a b : Nat} {arg x y : Word64}

/-- Reserved bits, said bit by bit. -/
theorem reserved_zero_iff : arg.toNat / 2 ^ n = 0 ↔ ∀ i, n ≤ i → arg.getLsbD i = false := by
  rw [← Nat.shiftRight_eq_div_pow, ← BitVec.toNat_ushiftRight]
  constructor
  · intro h i hi
    have hzero : arg >>> n = 0 := BitVec.eq_of_toNat_eq h
    have hbit := congrArg (·.getLsbD (i - n)) hzero
    simpa [Nat.add_sub_cancel' hi] using hbit
  · intro h
    have hzero : arg >>> n = 0 := by
      apply BitVec.eq_of_getLsbD_eq
      intro i _
      rw [BitVec.getLsbD_ushiftRight, h _ (Nat.le_add_right n i)]
      simp
    rw [hzero]
    rfl

theorem reserved_zero_or (hx : x.toNat / 2 ^ n = 0) (hy : y.toNat / 2 ^ n = 0) :
    (x ||| y).toNat / 2 ^ n = 0 := by
  rw [reserved_zero_iff] at hx hy ⊢
  intro i hi
  rw [BitVec.getLsbD_or, hx i hi, hy i hi, Bool.or_self]

/-- The bits of a field put at `a`. -/
theorem field_getLsbD (f : BitVec m) (h : a + m ≤ 64) (i : Nat) :
    (f.setWidth 64 <<< a).getLsbD i = (decide (a ≤ i) && f.getLsbD (i - a)) := by
  rw [BitVec.getLsbD_shiftLeft, BitVec.getLsbD_setWidth]
  by_cases hi : i < a + m
  · by_cases ha : a ≤ i <;> simp [ha, show i < 64 by omega, show i - a < 64 by omega]
  · simp [BitVec.getLsbD_of_ge f (i - a) (by omega)]

theorem field_reserved_zero (f : BitVec m) (h : a + m ≤ n) (hn : n ≤ 64) :
    (f.setWidth 64 <<< a).toNat / 2 ^ n = 0 := by
  rw [reserved_zero_iff]
  intro i hi
  rw [field_getLsbD f (by omega), BitVec.getLsbD_of_ge f _ (by omega), Bool.and_false]

theorem extract_or : (x ||| y).extractLsb' a n = x.extractLsb' a n ||| y.extractLsb' a n := by
  apply BitVec.eq_of_getLsbD_eq
  intro i hi
  simp [hi]

theorem extract_field_same (f : BitVec n) (h : a + n ≤ 64) :
    (f.setWidth 64 <<< a).extractLsb' a n = f := by
  apply BitVec.eq_of_getLsbD_eq
  intro i hi
  rw [BitVec.getLsbD_extractLsb', field_getLsbD f h]
  simp [hi]

/-- A field is not seen where another one stands. -/
theorem extract_field_apart (f : BitVec m) (hm : a + m ≤ 64) (h : a + m ≤ b ∨ b + n ≤ a) :
    (f.setWidth 64 <<< a).extractLsb' b n = 0#n := by
  apply BitVec.eq_of_getLsbD_eq
  intro i hi
  rw [BitVec.getLsbD_extractLsb', field_getLsbD f hm]
  rcases h with h | h
  · simp [BitVec.getLsbD_of_ge f (b + i - a) (by omega)]
  · simp [show ¬ a ≤ b + i by omega]

/-- The low `a` bits and the field above them are the low `a + n` bits. -/
theorem low_or_field (h : a + n ≤ 64) :
    (arg.extractLsb' 0 a).setWidth 64 ||| (arg.extractLsb' a n).setWidth 64 <<< a =
      (arg.extractLsb' 0 (a + n)).setWidth 64 := by
  apply BitVec.eq_of_getLsbD_eq
  intro i hi
  rw [BitVec.getLsbD_or, field_getLsbD _ h]
  by_cases ha : i < a
  · simp [hi, ha, Nat.not_le.mpr ha, show i < a + n by omega]
  · have hpos : a + (i - a) = i := by omega
    simp [hi, Nat.not_lt.mp ha, hpos, show i - a < n ↔ i < a + n by omega]

end Fields

/-! ### Operand bytes (R98) -/

section OperandBytes

variable {j k : Nat} {arg x y : Word64}

@[simp] theorem argByte_or : argByte (x ||| y) k = argByte x k ||| argByte y k := extract_or

@[simp] theorem argByte_placeByte_same (b : Byte) (h : k < 8) : argByte (placeByte b k) k = b :=
  extract_field_same b (by omega)

@[simp] theorem argByte_placeByte_ne (b : Byte) (hj : j < 8) (h : j ≠ k) :
    argByte (placeByte b j) k = 0 :=
  extract_field_apart b (by omega) (by omega)

theorem placeByte_reserved_zero {n : Nat} (b : Byte) (h : 8 * k + 8 ≤ n) (hn : n ≤ 64) :
    (placeByte b k).toNat / 2 ^ n = 0 := field_reserved_zero b h hn

theorem placeByte_argByte_zero :
    placeByte (argByte arg 0) 0 = (arg.extractLsb' 0 8).setWidth 64 := BitVec.shiftLeft_zero _

/-- An operand byte put back above the lower ones. -/
theorem low_or_placeByte (h : k < 8) :
    (arg.extractLsb' 0 (8 * k)).setWidth 64 ||| placeByte (argByte arg k) k =
      (arg.extractLsb' 0 (8 * k + 8)).setWidth 64 := low_or_field (by omega)

/-- Format F2 put together again. -/
theorem placeBytes_argBytes :
    placeByte (argByte arg 0) 0 ||| placeByte (argByte arg 1) 1 ||| placeByte (argByte arg 2) 2 |||
      placeByte (argByte arg 3) 3 = (arg.extractLsb' 0 32).setWidth 64 := by
  rw [placeByte_argByte_zero, low_or_placeByte (k := 1) (by decide),
    low_or_placeByte (k := 2) (by decide), low_or_placeByte (k := 3) (by decide)]

end OperandBytes

/-! ### Tokens (R94 to R96, R101) -/

/-- The control byte of a run is its two nibbles (R96). -/
theorem runByte_eq_append (count index : BitVec 4) : runByte count index = count ++ index := by
  apply BitVec.eq_of_getLsbD_eq
  intro i hi
  simp only [runByte, BitVec.getLsbD_or, BitVec.getLsbD_shiftLeft, BitVec.getLsbD_setWidth,
    BitVec.getLsbD_append]
  by_cases h : i < 4
  · simp [h, hi]
  · simp [h, hi, BitVec.getLsbD_of_ge index i (by omega), show i - 4 < 8 by omega]

theorem runByte_high (count index : BitVec 4) :
    (runByte count index).extractLsb' 4 4 = count := by
  rw [runByte_eq_append, BitVec.extractLsb'_append_eq_left]

theorem runByte_low (count index : BitVec 4) :
    (runByte count index).extractLsb' 0 4 = index := by
  rw [runByte_eq_append, BitVec.extractLsb'_append_eq_right]

theorem runByte_nibbles (c : Byte) : runByte (c.extractLsb' 4 4) (c.extractLsb' 0 4) = c := by
  rw [runByte_eq_append]
  exact BitVec.extractLsb'_append_extractLsb'

theorem runByte_eq_zero_iff {count index : BitVec 4} :
    runByte count index = 0x00 ↔ count = 0 ∧ index = 0 := by
  constructor
  · intro h
    exact ⟨by rw [← runByte_high count index, h]; rfl, by rw [← runByte_low count index, h]; rfl⟩
  · rintro ⟨rfl, rfl⟩
    rfl

/-- A run is well formed when its control byte is not the one of ESC.LIT. -/
theorem wf_escRun_iff {count index : BitVec 4} :
    WellFormed (.escRun count index) ↔ runByte count index ≠ 0x00 := by
  rw [ne_eq, runByte_eq_zero_iff, not_and_or]
  simp [WellFormed, Instr.wf]

theorem decodeEscape_runByte {count index : BitVec 4} (h : WellFormed (.escRun count index)) :
    decodeEscape (runByte count index) = .escRun count index := by
  rw [decodeEscape, if_neg (wf_escRun_iff.mp h), runByte_high, runByte_low]

/-- Every second byte of an escape is that of one token: ESC.LIT for 0x00, else a run. -/
theorem encode_decodeEscape (c : Byte) :
    WellFormed (decodeEscape c) ∧ encode (decodeEscape c) = .stream [Config.sentinel, c] := by
  by_cases hc : c = 0x00
  · rw [decodeEscape, if_pos hc, hc]
    exact ⟨rfl, rfl⟩
  · rw [decodeEscape, if_neg hc, wf_escRun_iff, encode, runByte_nibbles]
    exact ⟨hc, rfl⟩

theorem wf_lit_iff {b : Byte} : WellFormed (.lit b) ↔ b ≠ Config.sentinel := bne_iff_ne

theorem decodeToken_lit {b : Byte} (h : b ≠ Config.sentinel) (rest : List Byte) :
    decodeToken (b :: rest) = .ok (.lit b, rest) := if_neg h

theorem decodeToken_escape (c : Byte) (rest : List Byte) :
    decodeToken (Config.sentinel :: c :: rest) = .ok (decodeEscape c, rest) := rfl

theorem decodeToken_lone : decodeToken [Config.sentinel] = .error .truncatedEscape := rfl

/-- What is read off a stream is the encoding of a well-formed token. -/
theorem decodeToken_ok {bytes left : List Byte} {i : Instr} (h : decodeToken bytes = .ok (i, left)) :
    WellFormed i ∧ ∃ token, encode i = .stream token ∧ bytes = token ++ left := by
  match bytes with
  | [] => cases h
  | b :: rest =>
    by_cases hb : b = Config.sentinel
    case neg =>
      rw [decodeToken_lit hb] at h
      cases h
      exact ⟨wf_lit_iff.mpr hb, [b], rfl, rfl⟩
    subst hb
    match rest with
    | [] =>
      rw [decodeToken_lone] at h
      cases h
    | c :: rest =>
      rw [decodeToken_escape] at h
      cases h
      obtain ⟨hwf, henc⟩ := encode_decodeEscape c
      exact ⟨hwf, _, henc, rfl⟩

theorem decodeRequest_token {bytes : List Byte} {i : Instr} (h : decodeToken bytes = .ok (i, [])) :
    decodeRequest (.stream bytes) = .ok i := by
  rw [decodeRequest, h]

theorem decodeRequest_stream_ok {bytes : List Byte} {i : Instr}
    (h : decodeRequest (.stream bytes) = .ok i) : decodeToken bytes = .ok (i, []) := by
  rw [decodeRequest] at h
  split at h
  · next hd => cases h; exact hd
  · cases h
  · cases h

/-! ### Decoding the encoding of a command -/

section Commands

variable {op : BitVec 8} {arg : Word64} {n : Nat} {i j : Instr}

theorem decodeRequest_commandWord :
    decodeRequest (.command (commandWord op arg)) = decodeFields op arg :=
  decodeCommand_commandWord op arg

/-- An operand field whose reserved bits are clear decodes to what its format reads from it. -/
theorem decodeRequest_of_reserved_zero (hrow : decodeFields op arg = withReserved arg n j)
    (hzero : arg.toNat / 2 ^ n = 0) (hread : j = i) :
    decodeRequest (.command (commandWord op arg)) = .ok i := by
  rw [decodeRequest_commandWord, hrow, withReserved_clear j hzero, hread]

/-- Formats R, B and H: one field of `n` bits. -/
theorem decodeRequest_field {mk : BitVec n → Instr} (hn : n ≤ 64)
    (hrow : ∀ arg, decodeFields op arg = withReserved arg n (mk (arg.extractLsb' 0 n)))
    (x : BitVec n) : decodeRequest (.command (commandWord op (x.setWidth 64))) = .ok (mk x) :=
  decodeRequest_of_reserved_zero (hrow _) (setWidth_div x hn) (congrArg mk (extract_setWidth x hn))

/-- Format D: the value byte, and the index above it. -/
theorem decodeRequest_encode_rleDict (index : BitVec 4) (v : Byte) :
    decodeRequest (encode (.rleDict index v)) = .ok (.rleDict index v) := by
  have hentry := field_reserved_zero (a := 8) (n := 12) index (by decide) (by decide)
  refine decodeRequest_of_reserved_zero rfl
    (reserved_zero_or (placeByte_reserved_zero v (by decide) (by decide)) hentry) ?_
  have hindex : (placeByte v 0 ||| index.setWidth 64 <<< 8).extractLsb' 8 4 = index := by
    rw [extract_or, extract_field_same index (by decide), placeByte,
      extract_field_apart v (by decide) (by decide), BitVec.zero_or]
  have hvalue : argByte (placeByte v 0 ||| index.setWidth 64 <<< 8) 0 = v := by
    rw [argByte_or, argByte_placeByte_same v (by decide), argByte,
      extract_field_apart index (by decide) (by decide), BitVec.or_zero]
  rw [hindex, hvalue]

/-- The four operand bytes of format F2 leave the bits above them clear. -/
theorem placeBytes_reserved_zero (b0 b1 b2 b3 : Byte) (h : 32 ≤ n) (hn : n ≤ 64) :
    (placeByte b0 0 ||| placeByte b1 1 ||| placeByte b2 2 ||| placeByte b3 3).toNat / 2 ^ n = 0 :=
  have hbyte (b : Byte) {k : Nat} (hk : k < 4) : (placeByte b k).toNat / 2 ^ n = 0 :=
    placeByte_reserved_zero b (by omega) hn
  reserved_zero_or (reserved_zero_or (reserved_zero_or (hbyte b0 (by decide)) (hbyte b1 (by decide)))
    (hbyte b2 (by decide))) (hbyte b3 (by decide))

/-- Format F2: each operand byte is seen in its own place alone. -/
theorem decodeRequest_encode_fj2Beat (b0 b1 b2 e : Byte) :
    decodeRequest (encode (.fj2Beat b0 b1 b2 e)) = .ok (.fj2Beat b0 b1 b2 e) := by
  refine decodeRequest_of_reserved_zero rfl
    (placeBytes_reserved_zero b0 b1 b2 e (by decide) (by decide)) ?_
  simp

/-- Format F3: as F2, with the sign byte above. -/
theorem decodeRequest_encode_fj3Beat (f0 f1 f2 e sgn : Byte) :
    decodeRequest (encode (.fj3Beat f0 f1 f2 e sgn)) = .ok (.fj3Beat f0 f1 f2 e sgn) := by
  refine decodeRequest_of_reserved_zero rfl (reserved_zero_or
    (placeBytes_reserved_zero f0 f1 f2 e (by decide) (by decide))
    (placeByte_reserved_zero sgn (by decide) (by decide))) ?_
  simp

/-! ### Encoding what a command word decodes to -/

theorem encode_of_ok {code : BitVec 8} (h : Except.ok (ε := DecodeError) j = .ok i)
    (hwf : WellFormed j) (henc : encode j = .command (commandWord code arg))
    (hop : op.toNat = code.toNat) : WellFormed i ∧ encode i = .command (commandWord op arg) := by
  obtain rfl := Except.ok.inj h
  rw [henc, BitVec.eq_of_toNat_eq hop]
  exact ⟨hwf, rfl⟩

/-- A row of R97 whose format has reserved bits: with them clear, the operands put back are `arg`. -/
theorem encode_of_withReserved {code : BitVec 8} {arg' : Word64} (h : withReserved arg n j = .ok i)
    (hwf : WellFormed j) (henc : encode j = .command (commandWord code arg'))
    (harg : arg.toNat / 2 ^ n = 0 → arg' = arg) (hop : op.toNat = code.toNat) :
    WellFormed i ∧ encode i = .command (commandWord op arg) := by
  obtain ⟨hzero, rfl⟩ := withReserved_ok h
  exact encode_of_ok rfl hwf (harg hzero ▸ henc) hop

theorem eq_zero_of_reserved_zero (h : arg.toNat / 2 ^ 0 = 0) : 0 = arg :=
  (BitVec.eq_of_toNat_eq ((Nat.div_one _).symm.trans h)).symm

theorem packed_rleDict (h : arg.toNat / 2 ^ 12 = 0) :
    placeByte (argByte arg 0) 0 ||| (arg.extractLsb' 8 4).setWidth 64 <<< 8 = arg := by
  rw [placeByte_argByte_zero, low_or_field (by decide), setWidth_extract h]

theorem packed_fj2Beat (h : arg.toNat / 2 ^ 32 = 0) :
    placeByte (argByte arg 0) 0 ||| placeByte (argByte arg 1) 1 ||| placeByte (argByte arg 2) 2 |||
      placeByte (argByte arg 3) 3 = arg := by
  rw [placeBytes_argBytes, setWidth_extract h]

theorem packed_fj3Beat (h : arg.toNat / 2 ^ 40 = 0) :
    placeByte (argByte arg 0) 0 ||| placeByte (argByte arg 1) 1 ||| placeByte (argByte arg 2) 2 |||
      placeByte (argByte arg 3) 3 ||| placeByte (argByte arg 4) 4 = arg := by
  rw [placeBytes_argBytes, low_or_placeByte (k := 4) (by decide), setWidth_extract h]

/-- Only a well-formed command decodes, and only from its encoding: the rows of R97, by format. -/
theorem decodeFields_ok (h : decodeFields op arg = .ok i) :
    WellFormed i ∧ encode i = .command (commandWord op arg) := by
  unfold decodeFields at h
  split at h
  case h_1 hop | h_3 hop | h_5 hop | h_8 hop | h_14 hop => -- format Z
    exact encode_of_withReserved h rfl rfl eq_zero_of_reserved_zero hop
  case h_2 hop | h_4 hop | h_6 hop | h_7 hop | h_9 hop | h_10 hop | h_13 hop | h_20 hop |
      h_21 hop => -- formats R, B and H
    exact encode_of_withReserved h rfl rfl setWidth_extract hop
  case h_11 hop => exact encode_of_withReserved h rfl rfl packed_rleDict hop
  case h_15 hop => exact encode_of_withReserved h rfl rfl packed_fj2Beat hop
  case h_16 hop => exact encode_of_withReserved h rfl rfl packed_fj3Beat hop
  case h_12 hop | h_17 hop | h_18 hop | h_19 hop => -- format Q
    exact encode_of_ok h rfl rfl hop
  case h_22 => cases h -- no row of the table

end Commands

/-- Settles O1: a command format by format, a token by its bytes. -/
theorem decodeOfEncode : Obligations.DecodeOfEncode := by
  intro i hwf
  cases i with
  | nop => rfl
  | rdreg r => exact decodeRequest_field (mk := .rdreg) (by decide) (fun _ => rfl) r
  | reset => rfl
  | ksLoad k => exact decodeRequest_field (mk := .ksLoad) (by decide) (fun _ => rfl) k
  | ksStep => rfl
  | decStart key => exact decodeRequest_field (mk := .decStart) (by decide) (fun _ => rfl) key
  | decByte b => exact decodeRequest_field (mk := .decByte) (by decide) (fun _ => rfl) b
  | csClear => rfl
  | csByte b => exact decodeRequest_field (mk := .csByte) (by decide) (fun _ => rfl) b
  | csVerify x => exact decodeRequest_field (mk := .csVerify) (by decide) (fun _ => rfl) x
  | rleDict index v => exact decodeRequest_encode_rleDict index v
  | rleStart cap => exact decodeRequest_commandWord
  | rleByte b => exact decodeRequest_field (mk := .rleByte) (by decide) (fun _ => rfl) b
  | rleEnd => rfl
  | fj2Beat b0 b1 b2 e => exact decodeRequest_encode_fj2Beat b0 b1 b2 e
  | fj3Beat f0 f1 f2 e sgn => exact decodeRequest_encode_fj3Beat f0 f1 f2 e sgn
  | hdrParse0 off => exact decodeRequest_commandWord
  | hdrParse1 off => exact decodeRequest_commandWord
  | hdrParse2 off => exact decodeRequest_commandWord
  | chainScan m => exact decodeRequest_field (mk := .chainScan) (by decide) (fun _ => rfl) m
  | decode key => exact decodeRequest_field (mk := .decode) (by decide) (fun _ => rfl) key
  | lit b => exact decodeRequest_token (decodeToken_lit (wf_lit_iff.mp hwf) [])
  | escLit => exact decodeRequest_token (decodeToken_escape 0x00 [])
  | escRun count index =>
    have htoken := decodeRequest_token (decodeToken_escape (runByte count index) [])
    rwa [decodeEscape_runByte hwf] at htoken

/-- Settles O2: a command word is its two fields, a stream the one token read from it. -/
theorem encodeOfDecode : Obligations.EncodeOfDecode := by
  intro r i h
  cases r with
  | command w =>
    rw [← commandWord_fields w] at h ⊢
    exact decodeFields_ok (decodeRequest_commandWord.symm.trans h)
  | stream bytes =>
    obtain ⟨hwf, token, henc, hbytes⟩ := decodeToken_ok (decodeRequest_stream_ok h)
    rw [List.append_nil] at hbytes
    exact ⟨hwf, hbytes ▸ henc⟩

/-! ### Illegal command words (R99) -/

theorem decodeFields_unassigned {op : BitVec 8} {arg : Word64}
    (h : op.toNat ∉ [0x00, 0x01, 0x02, 0x10, 0x11, 0x20, 0x21, 0x30, 0x31, 0x32, 0x40, 0x41, 0x42,
      0x43, 0x50, 0x51, 0x60, 0x61, 0x62, 0x64, 0x68]) :
    decodeFields op arg = .error .unassignedOpcode := by
  unfold decodeFields
  split
  case h_22 => rfl
  all_goals next hop => exact absurd (by rw [hop]; decide) h

theorem decodeCommand_reserved {op : BitVec 8} {arg : Word64} {n : Nat} {j : Instr}
    (hrow : decodeFields op arg = withReserved arg n j) (h : arg.toNat / 2 ^ n ≠ 0) :
    decodeCommand (commandWord op arg) = .error .reservedBits := by
  rw [decodeCommand_commandWord, hrow, withReserved_set j h]

/-- Settles O3: each listed row of R97 reads its operands through `withReserved`. -/
theorem illegalWordsAreRejected : Obligations.IllegalWordsAreRejected := by
  refine ⟨fun op arg h => ?_, fun p hp arg h => ?_⟩
  · rw [decodeCommand_commandWord, decodeFields_unassigned h]
  · have hrow : ∃ j, decodeFields p.1 arg = withReserved arg p.2 j := by
      fin_cases hp <;> exact ⟨_, rfl⟩
    obtain ⟨j, hrow⟩ := hrow
    exact decodeCommand_reserved hrow h

/-- Settles O4: the decoder run on each word. -/
theorem specWordsDecode : Obligations.SpecWordsDecode :=
  ⟨rfl, rfl, rfl, rfl, rfl, rfl, rfl, rfl, rfl, rfl, rfl⟩

end Sys2Proof.Proofs

/-! PROOFS. One step, by what stands at the front of the port (30_encoding.md R99, R101;
70_reset_and_hazards.md R312). -/

namespace Sys2Proof.Proofs

open Sys2Proof Sys2Proof.Machine

section Front

variable {s : State} {port : List Request} {w : CmdWord} {bytes left : List Byte} {i : Instr}
  {e : DecodeError}

theorem step_idle (hp : s.port = []) : step s = .next s := by
  simp only [step, fetch, hp]

theorem step_command (hp : s.port = .command w :: port) (hd : decodeCommand w = .ok i) :
    step s = exec i { s with port := port } := by
  simp only [step, fetch, hp, hd]

theorem step_illegal (hp : s.port = .command w :: port) (hd : decodeCommand w = .error e) :
    step s = .next (takeError .protocol [] { s with port := port }) := by
  simp only [step, fetch, hp, hd, takeIllegal]

theorem step_drained (hp : s.port = .stream [] :: port) :
    step s = .next { s with port := port } := by
  simp only [step, fetch, hp]

theorem step_token (hp : s.port = .stream bytes :: port) (hd : decodeToken bytes = .ok (i, left)) :
    step s = exec i { s with port := pushStream left port } := by
  cases bytes with
  | nil => cases hd
  | cons b rest => simp only [step, fetch, hp, hd]

/-- Log 2: the sentinel at the end of a stream is a beat of its own, not a token. -/
theorem step_lone_sentinel (hp : s.port = .stream [Config.sentinel] :: port) :
    step s = exec (.rleByte Config.sentinel) { s with port := port } := by
  simp only [step, fetch, hp, decodeToken_lone, pushStream]

end Front

/-- Settles O5: a command word, the last token of a stream, and a token with more to come. -/
theorem stepRunsDecodedInstruction : Obligations.StepRunsDecodedInstruction := by
  intro s i port
  exact ⟨fun _ => step_command, fun _ => step_token, fun _ _ _ => step_token⟩

/-- Settles O6: one lemma for each front; with an illegal word, ERR decides what the raise does. -/
theorem stepWithoutInstruction : Obligations.StepWithoutInstruction := by
  intro s port
  refine ⟨step_idle, fun w e hp hd herr => ?_, fun w e hp hd herr => ?_, step_drained,
    step_lone_sentinel⟩
  · exact (step_illegal hp hd).trans (congrArg _ (takeError_ready herr))
  · exact (step_illegal hp hd).trans (congrArg _ (takeError_latched herr))

end Sys2Proof.Proofs

/-! PROOFS. The fields, the validity and the length of a parsed header (40_header_parser.md R123 to
R128). -/

namespace Sys2Proof.Proofs

open Sys2Proof Sys2Proof.Machine

section Header

variable {length : Nat} {bytes : List Byte} {c : StreamCfg}

/-! ### The checksum step -/

/-- Where the checksum field ends in a header whose fixed part and dictionary end at `p` (R127). -/
def sumEnd (cks : Bool) (p : Nat) : Nat := if cks then p + 2 else p

/-- What the checksum step at `p` makes of a record `c`, field by field (R125, R126). -/
structure SumParsed (bytes : List Byte) (length : Nat) (cks : Bool) (p : Nat) (c r : StreamCfg) :
    Prop where
  flags : r.flags = c.flags
  orig : r.orig = c.orig
  stored : r.stored = c.stored
  dict : r.dict = c.dict
  valid_iff : r.valid = true ↔ sumEnd cks p ≤ length
  hlen : r.valid = true → r.hlen.toNat = sumEnd cks p
  sum : r.valid = true → cks = true →
    r.sum.toNat = (bytes.getD p 0).toNat * 256 + (bytes.getD (p + 1) 0).toNat
  shortSum_iff : r.shortSum = true ↔ cks = true ∧ length < p + 2
  shortSum_hlen : r.shortSum = true → r.hlen.toNat = p + 2

theorem le_sumEnd (cks : Bool) (p : Nat) : p ≤ sumEnd cks p := by
  cases cks
  · exact Nat.le_refl p
  · exact Nat.le_add_right p 2

theorem bigEndian_pair_toNat (a b : Byte) :
    (BitVec.ofNat 16 (bigEndian [a, b])).toNat = a.toNat * 256 + b.toNat := by
  have ha := a.isLt
  have hb := b.isLt
  simp only [bigEndian, List.foldl, BitVec.toNat_ofNat]
  omega

theorem parseSum_sumParsed (hv : c.valid = false) (hs : c.shortSum = false)
    (h36 : c.hlen.toNat ≤ 36) (hl : c.hlen.toNat ≤ length) :
    SumParsed bytes length c.cks c.hlen.toNat c (parseSum bytes length c) := by
  have hadvance : (BitVec.ofNat 8 (c.hlen.toNat + 2)).toNat = c.hlen.toNat + 2 := by
    rw [BitVec.toNat_ofNat]
    omega
  cases hk : c.cks with
  | false =>
    rw [parseSum_none hk]
    constructor <;> simp [sumEnd, hs, hl]
  | true =>
    by_cases hshort : length < c.hlen.toNat + 2
    · rw [parseSum_short hk hshort]
      constructor <;> simp [sumEnd, hv, hshort, hadvance]
    · have hroom := Nat.not_lt.mp hshort
      rw [parseSum_read hk hroom]
      refine ⟨rfl, rfl, rfl, rfl, iff_of_true rfl hroom, fun _ => hadvance,
        fun _ _ => bigEndian_pair_toNat _ _, ?_, ?_⟩ <;> simp [hs, hshort]

/-! ### The dictionary step -/

/-- Where the fixed part and the dictionary end (R124, R127). -/
def dictEnd (comp : Bool) : Nat := if comp then 36 else 20

/-- A record with its dictionary, if its flags say it has one, and HLEN at the end of that. -/
def withDict (bytes : List Byte) (c : StreamCfg) : StreamCfg :=
  { c with
    dict := if c.comp then headerDict bytes else c.dict
    hlen := BitVec.ofNat 8 (dictEnd c.comp) }

theorem dictEnd_le (comp : Bool) : dictEnd comp ≤ 36 := by
  cases comp <;> decide

theorem withDict_hlen : (withDict bytes c).hlen.toNat = dictEnd c.comp := by
  have := dictEnd_le c.comp
  rw [withDict, BitVec.toNat_ofNat, Nat.mod_eq_of_lt (by omega)]

theorem withDict_none (hc : c.comp = false) (hh : c.hlen = 20) : withDict bytes c = c := by
  rw [withDict, hc]
  show { c with hlen := 20 } = c
  rw [← hh]

theorem withDict_read (hc : c.comp = true) :
    withDict bytes c = { c with dict := headerDict bytes, hlen := 36 } := by
  rw [withDict, hc]
  rfl

theorem parseDict_withDict (hh : c.hlen = 20) (hp : dictEnd c.comp ≤ length) :
    parseDict bytes length c = parseSum bytes length (withDict bytes c) := by
  cases hc : c.comp with
  | false => rw [parseDict_none hc, withDict_none hc hh]
  | true =>
    rw [hc] at hp
    rw [parseDict_read hc hp, withDict_read hc]

/-- A dictionary that is there is read, and then the checksum step runs. -/
theorem parseDict_sumParsed (hv : c.valid = false) (hs : c.shortSum = false) (hh : c.hlen = 20)
    (hp : dictEnd c.comp ≤ length) :
    SumParsed bytes length c.cks (dictEnd c.comp) (withDict bytes c) (parseDict bytes length c) := by
  have hsum := parseSum_sumParsed (c := withDict bytes c) (bytes := bytes) hv hs
    (withDict_hlen.trans_le (dictEnd_le _)) (withDict_hlen.trans_le hp)
  rw [withDict_hlen] at hsum
  rw [parseDict_withDict hh hp]
  exact hsum

end Header

/-! ### The fixed part -/

theorem flagsOfByte_toNat : ∀ b : Byte, (flagsOfByte b).toNat = b.toNat / 4 * 4 := by decide

theorem fixedPart_comp (draw f : Nat) (bytes : List Byte) :
    (fixedPart draw f bytes).comp = (bytes.getD 3 0).getLsbD 7 := flagsOfByte_getLsbD _ 7

theorem fixedPart_cks (draw f : Nat) (bytes : List Byte) :
    (fixedPart draw f bytes).cks = (bytes.getD 3 0).getLsbD 5 := flagsOfByte_getLsbD _ 5

/-- Settles O46: with the dictionary there, `parseDict_sumParsed` says every field; without it the
record stays the fixed part. -/
theorem parseHeaderFields : Obligations.ParseHeaderFields := by
  intro magic draw f length bytes hl h0 h1 h2 c flags p size
  have hc : c = parseDict bytes length (fixedPart draw f bytes) := parseHeader_long hl h0 h1 h2
  have hcomp := fixedPart_comp draw f bytes
  have hcks := fixedPart_cks draw f bytes
  by_cases hp : p ≤ length
  · have hpart := parseDict_sumParsed (c := fixedPart draw f bytes) (bytes := bytes)
      (length := length) rfl rfl rfl (by rw [hcomp]; exact hp)
    rw [← hc, hcomp, hcks] at hpart
    refine ⟨hpart.valid_iff, fun hv => ⟨hpart.hlen hv, ?_, ?_, ?_, fun hd i => ?_, hpart.sum hv⟩,
      fun hd h36 => ?_, ?_, hpart.shortSum_hlen⟩
    · rw [hpart.flags]
      exact flagsOfByte_toNat _
    · rw [hpart.orig]
      exact headerWord64_toNat bytes 4
    · rw [hpart.stored]
      exact headerWord64_toNat bytes 12
    · rw [hpart.dict, withDict, hcomp, if_pos hd]
      exact headerDict_getElem bytes i
    · exact absurd ((if_pos hd).symm.trans_le hp) (Nat.not_le.mpr h36)
    · exact hpart.shortSum_iff.trans (and_congr_right fun _ => (and_iff_right hp).symm)
  · have hd : flags.getLsbD 7 = true := by
      by_contra hd
      exact hp ((if_neg hd).trans_le hl)
    have h36 : length < 36 := Nat.not_le.mp fun h => hp ((if_pos hd).trans_le h)
    rw [parseDict_short (hcomp.trans hd) h36] at hc
    have hv : c.valid ≠ true := by rw [hc]; exact Bool.false_ne_true
    have hs : c.shortSum ≠ true := by rw [hc]; exact Bool.false_ne_true
    exact ⟨iff_of_false hv fun h => hp ((le_sumEnd _ p).trans h), fun h => absurd h hv,
      fun _ _ => by rw [hc]; rfl, iff_of_false hs fun ⟨_, h, _⟩ => hp h, fun h => absurd h hs⟩

end Sys2Proof.Proofs

/-! PROOFS. The command HDR.PARSE.f and the two limits of `parse_header`: what it refuses, and the bytes
it reads (40_header_parser.md R120 to R122, R129, R130). -/

namespace Sys2Proof.Proofs

open Sys2Proof Sys2Proof.Machine Sys2Proof.Certificates

/-! ### A record that was not read -/

theorem blankCfg_invalid (draw f : Nat) :
    (blankCfg draw f).valid = false ∧ (blankCfg draw f).shortSum = false := ⟨rfl, rfl⟩

/-- Settles O45: either failure leaves the blank record. -/
theorem parseHeaderFailsClosed : Obligations.ParseHeaderFailsClosed := by
  intro magic draw f length bytes c
  refine ⟨fun hl => ?_, fun hm => ?_⟩
  · rw [show c = blankCfg draw f from parseHeader_short hl]
    exact blankCfg_invalid draw f
  · rw [show c = blankCfg draw f from parseHeader_badMagic hm]
    exact blankCfg_invalid draw f

/-- Settles O47: each step of the parser is a function of the bytes below HLEN (`parseHeader_congr`). -/
theorem parseHeaderReadsHeaderOnly : Obligations.ParseHeaderReadsHeaderOnly :=
  fun _ _ _ _ _ _ _ => parseHeader_congr

/-! ### The command -/

/-- R120, R130: past BLEN the length is 0, as the subtraction of naturals has it. -/
theorem headerAt_eq (magic : Magic) (draw f : Nat) (inp : Memory) (blen off : Nat) :
    headerAt magic draw f inp blen off =
      .ok { parseHeader magic draw f (inp.readRange off (min (blen - off) 38)) (blen - off) with
        off := BitVec.ofNat 64 off
        doff := fit64 (dataOffset off (parseHeader magic draw f
          (inp.readRange off (min (blen - off) 38)) (blen - off))) draw (0x20 * f + 7) } := by
  obtain ⟨bytes, length, rfl, hlength, hok⟩ := headerAt_ok magic draw f inp blen off
  obtain rfl : length = blen - off := by
    rw [hlength]
    split <;> omega
  exact hok

section Command

variable {s : State} {f : Fin 3} {off : Word64} {c : StreamCfg}

theorem ofBool_setWidth (b : Bool) :
    (BitVec.ofBool b).setWidth 64 = (if b then 1 else 0 : Word64) := by
  cases b <;> rfl

theorem hdrParse_ready (he : s.err = 0)
    (hc : headerAt Config.magic s.free f s.inp s.blen.toNat off.toNat = .ok c) :
    hdrParse f off s = .next (answered { s with
      cfg := s.cfg.set f c, scanv := false, outv := false, free := s.free + 1 }
      (if c.valid then 1 else 0) []) := by
  rw [hdrParse, if_pos he, hc, ← ofBool_setWidth]
  rfl

theorem hdrParse_refused (he : s.err ≠ 0) : hdrParse f off s = .next (answered s 0 []) :=
  if_neg he

end Command

/-- Settles O44: the three slots run `hdrParse`, whose header is always read (`headerAt_eq`). -/
theorem hdrParseMeaning : Obligations.HdrParseMeaning := by
  intro s off f i hi
  have hexec : exec i s = hdrParse f off s := by
    subst hi
    match f with
    | 0 | 1 | 2 => rfl
  refine ⟨fun he => ?_, fun he => hexec.trans (hdrParse_refused he)⟩
  have hc := headerAt_eq Config.magic s.free f s.inp s.blen.toNat off.toNat
  rw [BitVec.ofNat_toNat, BitVec.setWidth_eq] at hc
  exact ⟨_, hexec.trans (hdrParse_ready he hc), fit64_toNat _ _⟩

end Sys2Proof.Proofs

/-! PROOFS. The checksum: the function's closed form and what follows from it, the commands
CS.CLEAR, CS.BYTE and CS.VERIFY, and the fold of CS.BYTE (41_checksum.md R140 to R143, R145). -/

namespace Sys2Proof.Proofs

open Sys2Proof Sys2Proof.Machine Sys2Proof.Certificates

/-! ### The function -/

theorem checksumAdd_eq_ofNat (c : Word16) (b : Byte) :
    checksumAdd c b = BitVec.ofNat 16 (c.toNat + b.toNat) := by
  rw [BitVec.ofNat_add, BitVec.ofNat_toNat, BitVec.ofNat_toNat, BitVec.setWidth_eq, checksumAdd]

/-- The accumulator takes in the bytes' unsigned sum, whatever it held before. -/
theorem foldl_checksumAdd (bytes : List Byte) (c : Word16) :
    bytes.foldl checksumAdd c = c + BitVec.ofNat 16 (bytes.map BitVec.toNat).sum := by
  induction bytes generalizing c with
  | nil => exact (BitVec.add_zero c).symm
  | cons b rest ih =>
    rw [List.foldl_cons, ih, List.map_cons, List.sum_cons, BitVec.ofNat_add, ← BitVec.add_assoc,
      BitVec.ofNat_toNat, checksumAdd]

theorem checksum_eq_ofNat_sum (bytes : List Byte) :
    checksum bytes = BitVec.ofNat 16 (bytes.map BitVec.toNat).sum :=
  (foldl_checksumAdd bytes 0).trans (BitVec.zero_add _)

/-- Settles O27: the closed form, read as a natural number. -/
theorem checksumIsSum : Obligations.ChecksumIsSum := by
  intro bytes
  rw [checksum_eq_ofNat_sum, BitVec.toNat_ofNat]

theorem checksum_perm {bytes bytes' : List Byte} (h : bytes.Perm bytes') :
    checksum bytes = checksum bytes' := by
  rw [checksum_eq_ofNat_sum, checksum_eq_ofNat_sum, (h.map BitVec.toNat).sum_eq]

theorem checksum_append (bytes bytes' : List Byte) :
    checksum (bytes ++ bytes') = checksum bytes + checksum bytes' := by
  simp only [checksum_eq_ofNat_sum, List.map_append, List.sum_append, BitVec.ofNat_add]

theorem checksum_replicate (n : Nat) (b : Byte) :
    checksum (List.replicate n b) = BitVec.ofNat 16 (n * b.toNat) := by
  rw [checksum_eq_ofNat_sum, List.map_replicate, List.sum_replicate, smul_eq_mul]

/-- Settles O28: each law is one of the closed form's. -/
theorem checksumLaws : Obligations.ChecksumLaws := by
  refine ⟨rfl, checksum_replicate 257 0xFF, checksum_replicate 258 0xFF, fun _ _ => checksum_perm,
    rfl, checksum_append, fun bytes n => ?_⟩
  have hzeros : checksum (List.replicate n 0) = 0 := checksum_replicate n 0
  rw [checksum_append, hzeros]
  exact BitVec.add_zero _

/-! ### The commands -/

section Command

variable {i : Instr} {f : State → State} {s : State} {b : Byte} {x : Word16}

/-- A command whose work waits for ERR = 0 is refused in the error state (R281). -/
theorem refusedIn_of_whenReady (hexec : exec i s = .next (whenReady f s)) : refusedIn i s :=
  fun he => hexec.trans (congrArg _ (whenReady_refused he))

theorem exec_of_whenReady (hexec : exec i s = .next (whenReady f s)) (he : s.err = 0) :
    exec i s = .next (f s) :=
  hexec.trans (congrArg _ (whenReady_ready he))

/-- An error raised with ERR = 0 stops the command with its code (R280). -/
theorem takeError_eq_stopped (e : Error) (d : List Byte) (he : s.err = 0) :
    takeError e d s = stopped s e.code d :=
  takeError_ready he

/-- A command that needs a cleared accumulator raises ProtocolError without one (R143, R145). -/
theorem exec_uncleared
    (hexec : exec i s =
      .next (whenReady (fun s => if s.csv then f s else takeError .protocol [] s) s))
    (he : s.err = 0) (hv : s.csv = false) : exec i s = .next (stopped s 7 []) :=
  calc exec i s
      = .next (if s.csv then f s else takeError .protocol [] s) := exec_of_whenReady hexec he
    _ = .next (takeError .protocol [] s) := congrArg _ (if_neg (Bool.eq_false_iff.mp hv))
    _ = .next (stopped s 7 []) := congrArg _ (takeError_eq_stopped .protocol [] he)

theorem exec_cleared
    (hexec : exec i s =
      .next (whenReady (fun s => if s.csv then f s else takeError .protocol [] s) s))
    (he : s.err = 0) (hv : s.csv = true) : exec i s = .next (f s) :=
  (exec_of_whenReady hexec he).trans (congrArg _ (if_pos hv))

theorem exec_csClear_ready (he : s.err = 0) :
    exec .csClear s = .next (answered { s with cs := 0, csv := true } 0 []) :=
  exec_of_whenReady (f := fun s => answered { s with cs := 0, csv := true } 0 []) rfl he

theorem exec_csByte_cleared (he : s.err = 0) (hv : s.csv = true) :
    exec (.csByte b) s = .next (answered { s with cs := checksumAdd s.cs b } 0 []) :=
  exec_cleared (f := fun s => answered { s with cs := checksumAdd s.cs b } 0 []) rfl he hv

theorem exec_csVerify_cleared (he : s.err = 0) (hv : s.csv = true) :
    exec (.csVerify x) s =
      .next (if s.cs = x then answered s 0 [] else takeError .integrity [] s) :=
  exec_cleared (f := fun s => if s.cs = x then answered s 0 [] else takeError .integrity [] s)
    rfl he hv

theorem exec_csVerify_match (he : s.err = 0) (hv : s.csv = true) (hx : s.cs = x) :
    exec (.csVerify x) s = .next (answered s 0 []) :=
  (exec_csVerify_cleared he hv).trans (congrArg _ (if_pos hx))

theorem exec_csVerify_mismatch (he : s.err = 0) (hv : s.csv = true) (hx : s.cs ≠ x) :
    exec (.csVerify x) s = .next (stopped s 2 []) :=
  calc exec (.csVerify x) s
      = .next (if s.cs = x then answered s 0 [] else takeError .integrity [] s) :=
        exec_csVerify_cleared he hv
    _ = .next (takeError .integrity [] s) := congrArg _ (if_neg hx)
    _ = .next (stopped s 2 []) := congrArg _ (takeError_eq_stopped .integrity [] he)

end Command

/-- Settles O24: the command's work waits for ERR = 0 alone. -/
theorem csClearMeaning : Obligations.CsClearMeaning :=
  fun _ => ⟨exec_csClear_ready, refusedIn_of_whenReady rfl, rfl⟩

/-- Settles O25: the accumulator's step is the sum of naturals, cut to 16 bits
(`checksumAdd_eq_ofNat`). -/
theorem csByteMeaning : Obligations.CsByteMeaning := by
  intro s b
  refine ⟨fun he hv => ?_, exec_uncleared rfl, refusedIn_of_whenReady rfl,
    decodeRequest_field (mk := .csByte) (by decide) (fun _ => rfl) b⟩
  rw [exec_csByte_cleared he hv, checksumAdd_eq_ofNat]

/-- Settles O26: the accumulator is compared only where CSV is set, and no branch writes it. -/
theorem csVerifyMeaning : Obligations.CsVerifyMeaning :=
  fun _ x => ⟨exec_csVerify_match, exec_csVerify_mismatch, exec_uncleared rfl,
    refusedIn_of_whenReady rfl,
    decodeRequest_field (mk := .csVerify) (by decide) (fun _ => rfl) x⟩

/-! ### The fold -/

section Run

variable {i : Instr} {s t : State} {is : List Instr}

theorem runAll_cons (h : exec i s = .next t) :
    runAll (i :: is) s = (runAll is t).map fun r => (r.1, t.resp.data ++ r.2) := by
  rw [runAll, h]

/-- A command that answers no data adds nothing to a run's. -/
theorem runAll_cons_silent (h : exec i s = .next t) (hd : t.resp.data = []) :
    runAll (i :: is) s = runAll is t := by
  rw [runAll_cons h, hd]
  exact congrFun Option.map_id _

end Run

/-- CS.BYTE after CS.BYTE folds the accumulator's step over the bytes. -/
theorem runAll_csByte (bytes : List Byte) {s : State} (he : s.err = 0) (hv : s.csv = true) :
    runAll (bytes.map .csByte) (answered s 0 []) =
      some (answered { s with cs := bytes.foldl checksumAdd s.cs } 0 [], []) := by
  induction bytes generalizing s with
  | nil => rfl
  | cons b rest ih =>
    have hexec : exec (.csByte b) (answered s 0 []) =
        .next (answered { s with cs := checksumAdd s.cs b } 0 []) := exec_csByte_cleared he hv
    rw [List.map_cons, runAll_cons_silent hexec rfl]
    exact ih (s := { s with cs := checksumAdd s.cs b }) he hv

/-- Settles O29: CS.CLEAR starts the fold of `runAll_csByte` at 0. -/
theorem csSumRefinesChecksum : Obligations.CsSumRefinesChecksum := by
  intro s bytes he
  rw [csSum, runAll_cons_silent (exec_csClear_ready he) rfl]
  exact runAll_csByte bytes (s := { s with cs := 0, csv := true }) he rfl

end Sys2Proof.Proofs

/-! PROOFS. The keystream generator: the bits of a step, the inverse step, the commands KS.LOAD and
KS.STEP, and the period of the LFSR (42_lfsr.md R155, R156, R159, R160). -/

namespace Sys2Proof.Proofs

open Sys2Proof Sys2Proof.Machine Sys2Proof.Certificates

/-! ### The bits of a step and of the inverse step (R155, R156) -/

section Bits

variable {i : Nat}

/-- The XOR of the bits of weight 1, 64, 512 and 8192. -/
def feedback (s : Word16) : Bool :=
  (s.getLsbD 0 ^^ s.getLsbD 6) ^^ (s.getLsbD 9 ^^ s.getLsbD 13)

theorem lfsrStep_getLsbD_low (s : Word16) (h : i < 15) :
    (lfsrStep s).getLsbD i = s.getLsbD (i + 1) := by
  simp [lfsrStep, h, Nat.add_comm]

theorem lfsrStep_getLsbD_top (s : Word16) : (lfsrStep s).getLsbD 15 = feedback s := by
  simp [lfsrStep, feedback]

theorem lfsrBack_getLsbD_zero (s : Word16) :
    (lfsrBack s).getLsbD 0 = ((s.getLsbD 15 ^^ s.getLsbD 5) ^^ (s.getLsbD 8 ^^ s.getLsbD 12)) := by
  simp [lfsrBack]

theorem lfsrBack_getLsbD_succ (s : Word16) (h : i < 15) :
    (lfsrBack s).getLsbD (i + 1) = s.getLsbD i := by
  have hi : i + 1 < 16 := Nat.succ_lt_succ h
  simp [-BitVec.getLsbD_eq_getElem, lfsrBack, hi]

/-- Feeding three of four bits back into their XOR leaves the fourth. -/
theorem xor_taps_cancel : ∀ a b c d : Bool, ((((a ^^ b) ^^ (c ^^ d)) ^^ b) ^^ (c ^^ d)) = a := by
  decide

theorem lfsrBack_lfsrStep (s : Word16) : lfsrBack (lfsrStep s) = s := by
  refine BitVec.eq_of_getLsbD_eq fun i hi => ?_
  cases i with
  | zero =>
    have hlow (j : Nat) (hj : j < 15) := lfsrStep_getLsbD_low s hj
    rw [lfsrBack_getLsbD_zero, lfsrStep_getLsbD_top, hlow 5 (by decide), hlow 8 (by decide),
      hlow 12 (by decide)]
    exact xor_taps_cancel ..
  | succ i =>
    have hi : i < 15 := Nat.lt_of_succ_lt_succ hi
    rw [lfsrBack_getLsbD_succ _ hi, lfsrStep_getLsbD_low s hi]

theorem lfsrStep_lfsrBack (s : Word16) : lfsrStep (lfsrBack s) = s := by
  have hsucc (j : Nat) (hj : j < 15) := lfsrBack_getLsbD_succ s hj
  refine BitVec.eq_of_getLsbD_eq fun i hi => ?_
  obtain hi | rfl : i < 15 ∨ i = 15 := by omega
  · rw [lfsrStep_getLsbD_low _ hi, hsucc i hi]
  · rw [lfsrStep_getLsbD_top, feedback, lfsrBack_getLsbD_zero, hsucc 5 (by decide),
      hsucc 8 (by decide), hsucc 12 (by decide)]
    exact xor_taps_cancel ..

end Bits

/-- Settles O17: both inverses hold bit by bit, the bit that is fed back by `xor_taps_cancel`. -/
theorem lfsrStepInverse : Obligations.LfsrStepInverse :=
  fun s => ⟨lfsrBack_lfsrStep s, lfsrStep_lfsrBack s⟩

/-! ### The commands KS.LOAD and KS.STEP -/

section Command

variable {i : Instr} {f : State → State} {s : State}

/-- The shifts of R155 line the tapped bits up at bit 0. -/
theorem lfsrStep_eq_shifts (s : Word16) :
    lfsrStep s = (s >>> 1) ||| (((s ^^^ (s >>> 6) ^^^ (s >>> 9) ^^^ (s >>> 13)) &&& 1) <<< 15) := by
  have hbit : (s ^^^ (s >>> 6) ^^^ (s >>> 9) ^^^ (s >>> 13)).getLsbD 0 = feedback s := by
    simp only [feedback, BitVec.getLsbD_xor, BitVec.getLsbD_ushiftRight, Bool.xor_assoc]
  have hone (x : Word16) : (BitVec.ofBool (x.getLsbD 0)).setWidth 16 = x &&& 1 :=
    BitVec.and_one_eq_setWidth_ofBool_getLsbD.symm
  rw [← hone, hbit, lfsrStep, feedback]

theorem exec_ksLoad_ready {k : Word16} (he : s.err = 0) :
    exec (.ksLoad k) s = .next (answered { s with ks := k, ksv := true } 0 []) :=
  exec_of_whenReady (f := fun s => respond 0 [] { s with ks := k, ksv := true }) rfl he

/-- A command that needs a loaded generator raises ProtocolError without one (R160, R177). -/
theorem exec_unloaded
    (hexec : exec i s =
      .next (whenReady (fun s => if s.ksv then f s else takeError .protocol [] s) s))
    (he : s.err = 0) (hv : s.ksv = false) : exec i s = .next (stopped s 7 []) :=
  calc exec i s
      = .next (if s.ksv then f s else takeError .protocol [] s) := exec_of_whenReady hexec he
    _ = .next (takeError .protocol [] s) := congrArg _ (if_neg (Bool.eq_false_iff.mp hv))
    _ = .next (stopped s 7 []) := congrArg _ (takeError_eq_stopped .protocol [] he)

theorem exec_loaded
    (hexec : exec i s =
      .next (whenReady (fun s => if s.ksv then f s else takeError .protocol [] s) s))
    (he : s.err = 0) (hv : s.ksv = true) : exec i s = .next (f s) :=
  (exec_of_whenReady hexec he).trans (congrArg _ (if_pos hv))

theorem exec_ksStep_loaded (he : s.err = 0) (hv : s.ksv = true) :
    exec .ksStep s =
      .next (answered { s with ks := lfsrStep s.ks } ((lfsrStep s.ks).setWidth 64) []) :=
  exec_loaded (f := fun s => respond ((lfsrStep s.ks).setWidth 64) [] { s with ks := lfsrStep s.ks })
    rfl he hv

end Command

/-- Settles O15: the command's work waits for ERR = 0 alone. -/
theorem ksLoadMeaning : Obligations.KsLoadMeaning :=
  fun _ k => ⟨exec_ksLoad_ready, refusedIn_of_whenReady rfl,
    decodeRequest_field (mk := .ksLoad) (by decide) (fun _ => rfl) k⟩

/-- Settles O16: the model's step is the rule's shifts (`lfsrStep_eq_shifts`). -/
theorem ksStepMeaning : Obligations.KsStepMeaning := by
  intro s n ks
  have hks : lfsrStep s.ks = ks := lfsrStep_eq_shifts s.ks
  refine ⟨fun he hv => ?_, exec_unloaded rfl, refusedIn_of_whenReady rfl, rfl⟩
  rw [exec_ksStep_loaded he hv, hks]

/-! ### Polynomials over the two-element field

A word is read as the polynomial of degree below 16 whose coefficient of `x ^ i` is bit `i`. -/

section Polynomials

open Function

variable {f g φ : Word16 → Word16} {n : Nat}

/-- `f` is linear over the two-element field. -/
def XorLinear (f : Word16 → Word16) : Prop := ∀ a b, f (a ^^^ b) = f a ^^^ f b

theorem XorLinear.map_zero (h : XorLinear f) : f 0 = 0 :=
  calc f 0 = f 0 ^^^ f 0 := h 0 0
    _ = 0 := BitVec.xor_self

/-- The terms of degree below `n` of the polynomial `a`, `f` put for `x`, at the word `v`. -/
def polyAt (f : Word16 → Word16) (a v : Word16) : Nat → Word16
  | 0 => 0
  | n + 1 => polyAt f a v n ^^^ if a.getLsbD n then f^[n] v else 0

theorem polyAt_map (hφ : XorLinear φ) (hs : Semiconj φ f g) (a v : Word16) (n : Nat) :
    φ (polyAt f a v n) = polyAt g a (φ v) n := by
  induction n with
  | zero => exact hφ.map_zero
  | succ n ih =>
    rw [polyAt, polyAt, hφ, ih, apply_ite φ, (hs.iterate_right n).eq, hφ.map_zero]

theorem polyAt_xor (f : Word16 → Word16) (v : Word16) (n : Nat) :
    XorLinear fun a => polyAt f a v n := by
  intro a b
  induction n with
  | zero => exact BitVec.xor_self.symm
  | succ n ih =>
    have hterm : (if (a ^^^ b).getLsbD n then f^[n] v else 0) =
        (if a.getLsbD n then f^[n] v else 0) ^^^ if b.getLsbD n then f^[n] v else 0 := by
      rw [BitVec.getLsbD_xor]
      cases a.getLsbD n <;> cases b.getLsbD n <;> simp
    simp only [polyAt] at ih ⊢
    rw [ih, hterm]
    ac_rfl

theorem polyAt_zero_right (hf : XorLinear f) (a : Word16) (n : Nat) : polyAt f a 0 n = 0 :=
  (polyAt_map (φ := fun _ => 0) (f := f) (fun _ _ => BitVec.xor_self.symm)
    (fun _ => hf.map_zero.symm) a 0 n).symm

theorem polyAt_shiftLeft (hf : XorLinear f) (a v : Word16) (hn : n < 16) :
    polyAt f (a <<< 1) v (n + 1) = f (polyAt f a v n) := by
  induction n with
  | zero =>
    rw [polyAt, polyAt, polyAt, hf.map_zero]
    simp
  | succ n ih =>
    have hbit : (a <<< 1).getLsbD (n + 1) = a.getLsbD n := by
      simp [-BitVec.getLsbD_eq_getElem, hn]
    rw [polyAt, ih (Nat.lt_of_succ_lt hn), polyAt, hf, apply_ite f, hf.map_zero,
      iterate_succ_apply', hbit]

/-- The low 16 coefficients of the generator's polynomial x^16 + x^13 + x^9 + x^6 + 1. -/
def taps : Word16 := 0x2241

/-- `x` times the polynomial `a`, reduced by the generator's polynomial. -/
def mulX (a : Word16) : Word16 := (a <<< 1) ^^^ if a.getLsbD 15 then taps else 0

/-- The product of two polynomials, reduced by the generator's polynomial. -/
def polyMul (a b : Word16) : Word16 := polyAt mulX a b 16

/-- `x ^ k`, reduced by the generator's polynomial, by squaring once for each of `n` binary digits
of `k`. -/
def powX : Nat → Nat → Word16
  | 0, _ => 1
  | n + 1, k =>
    let half := powX n (k / 2)
    if k % 2 = 1 then mulX (polyMul half half) else polyMul half half

end Polynomials

/-! ### The step satisfies the generator's polynomial

So a polynomial acts on a state as its remainder does, and `k` steps are the action of `x ^ k`,
one word that takes few squarings to compute. -/

section Step

open Function

variable {i k n : Nat}

theorem feedback_xor (a b : Word16) : feedback (a ^^^ b) = (feedback a ^^ feedback b) := by
  simp only [feedback, BitVec.getLsbD_xor, Bool.xor_assoc, Bool.xor_left_comm]

theorem xorLinear_lfsrStep : XorLinear lfsrStep := by
  refine fun a b => BitVec.eq_of_getLsbD_eq fun i hi => ?_
  rw [BitVec.getLsbD_xor]
  obtain hi | rfl : i < 15 ∨ i = 15 := by omega
  · simp only [lfsrStep_getLsbD_low _ hi, BitVec.getLsbD_xor]
  · simp only [lfsrStep_getLsbD_top, feedback_xor]

/-- A state is a window on one sequence of bits: bit `i` reaches bit 0 after `i` steps. -/
theorem iterate_getLsbD (s : Word16) (hi : i < 16) :
    s.getLsbD i = (lfsrStep^[i] s).getLsbD 0 := by
  induction i generalizing s with
  | zero => rfl
  | succ i ih =>
    rw [iterate_succ_apply, ← ih (lfsrStep s) (Nat.lt_of_succ_lt hi),
      lfsrStep_getLsbD_low s (Nat.lt_of_succ_lt_succ hi)]

/-- The recurrence of that sequence. -/
theorem iterate_sixteen_getLsbD_zero (s : Word16) :
    (lfsrStep^[16] s).getLsbD 0 = feedback s := by
  rw [iterate_succ_apply, ← iterate_getLsbD _ (by decide), lfsrStep_getLsbD_top]

/-- The polynomial `a`, the step put for `x`, at the state `s`. -/
def stepAt (a s : Word16) : Word16 := polyAt lfsrStep a s 16

theorem stepAt_xor (s : Word16) : XorLinear (stepAt · s) := polyAt_xor lfsrStep s 16

theorem stepAt_zero (a : Word16) : stepAt a 0 = 0 := polyAt_zero_right xorLinear_lfsrStep a 16

theorem stepAt_one (s : Word16) : stepAt 1 s = s := by
  simp [-iterate_succ, stepAt, polyAt]

/-- The recurrence of the bits, read as an equation of states. -/
theorem stepAt_taps (s : Word16) : stepAt taps s = lfsrStep^[16] s := by
  have hsum : stepAt taps s =
      (s ^^^ lfsrStep^[6] s) ^^^ (lfsrStep^[9] s ^^^ lfsrStep^[13] s) := by
    simp [-iterate_succ, stepAt, polyAt, taps, BitVec.xor_assoc]
  rw [hsum]
  refine BitVec.eq_of_getLsbD_eq fun i hi => ?_
  have hwindow (k : Nat) :
      (lfsrStep^[k] s).getLsbD i = (lfsrStep^[k] (lfsrStep^[i] s)).getLsbD 0 := by
    rw [iterate_getLsbD _ hi, (Commute.iterate_iterate_self lfsrStep i k).eq]
  have hbit (k : Nat) (hk : k < 16) : (lfsrStep^[k] s).getLsbD i = (lfsrStep^[i] s).getLsbD k := by
    rw [hwindow, ← iterate_getLsbD _ hk]
  rw [hwindow 16, iterate_sixteen_getLsbD_zero, feedback, BitVec.getLsbD_xor, BitVec.getLsbD_xor,
    BitVec.getLsbD_xor, hbit 6 (by decide), hbit 9 (by decide), hbit 13 (by decide),
    iterate_getLsbD s hi]

theorem stepAt_mulX (a s : Word16) : stepAt (mulX a) s = lfsrStep (stepAt a s) := by
  have htop : stepAt (if a.getLsbD 15 then taps else 0) s =
      if a.getLsbD 15 then lfsrStep^[16] s else 0 := by
    cases a.getLsbD 15
    · exact (stepAt_xor s).map_zero
    · exact stepAt_taps s
  calc stepAt (mulX a) s
      = stepAt (a <<< 1) s ^^^ if a.getLsbD 15 then lfsrStep^[16] s else 0 :=
        (stepAt_xor s _ _).trans (congrArg _ htop)
    _ = lfsrStep (polyAt lfsrStep a s 15) ^^^
          lfsrStep (if a.getLsbD 15 then lfsrStep^[15] s else 0) := by
        rw [stepAt, polyAt_shiftLeft xorLinear_lfsrStep a s (by decide), apply_ite lfsrStep,
          xorLinear_lfsrStep.map_zero, iterate_succ_apply']
    _ = lfsrStep (stepAt a s) := (xorLinear_lfsrStep _ _).symm

/-- The reduced product acts as the two factors do one after the other. -/
theorem stepAt_polyMul (a b s : Word16) : stepAt (polyMul a b) s = stepAt a (stepAt b s) :=
  polyAt_map (stepAt_xor s) (fun b => stepAt_mulX b s) a b 16

/-- `x ^ k`, the step put for `x`, is `k` steps. -/
theorem stepAt_powX (hk : k < 2 ^ n) (s : Word16) : stepAt (powX n k) s = lfsrStep^[k] s := by
  induction n generalizing k s with
  | zero =>
    obtain rfl : k = 0 := by omega
    exact stepAt_one s
  | succ n ih =>
    have hhalf : k / 2 < 2 ^ n := by omega
    have hsquare : stepAt (polyMul (powX n (k / 2)) (powX n (k / 2))) s =
        lfsrStep^[k / 2 + k / 2] s := by
      rw [stepAt_polyMul, ih hhalf, ih hhalf, iterate_add_apply]
    rw [powX]
    split
    next hodd =>
      have hsum : k / 2 + k / 2 + 1 = k := by omega
      rw [stepAt_mulX, hsquare, ← iterate_succ_apply' lfsrStep, Nat.succ_eq_add_one, hsum]
    next heven =>
      have hsum : k / 2 + k / 2 = k := by omega
      rw [hsquare, hsum]

end Step

/-! ### The period (R156)

`x ^ 65535` reduces to 1, and for each prime `p` of 65535 the difference `x ^ (65535 / p) - 1` is
invertible, so no nonzero state returns after `65535 / p` steps. -/

section Period

open Function

variable {b s : Word16} {k : Nat}

theorem lfsrIter_eq_iterate (k : Nat) (s : Word16) : lfsrIter k s = lfsrStep^[k] s := by
  induction k generalizing s with
  | zero => rfl
  | succ k ih => exact ih (lfsrStep s)

/-- A period is the minimal one if dividing it by any of its primes leaves none. -/
theorem minimalPeriod_eq_of_div_prime {α : Type} {f : α → α} {x : α} {n : Nat}
    (hx : IsPeriodicPt f n x)
    (hp : ∀ p : Nat, p.Prime → p ∣ n → ¬ IsPeriodicPt f (n / p) x) : minimalPeriod f x = n := by
  obtain ⟨e, rfl⟩ : ∃ e, n = minimalPeriod f x * e := hx.minimalPeriod_dvd
  by_contra hne
  have he : e ≠ 1 := fun he => hne (by rw [he, Nat.mul_one])
  obtain ⟨p, hprime, hpe⟩ := Nat.exists_prime_and_dvd he
  refine hp p hprime (hpe.mul_left _) ?_
  rw [Nat.mul_div_assoc _ hpe]
  exact (isPeriodicPt_minimalPeriod f x).mul_const _

/-- `x ^ 65535` reduces to 1. -/
theorem isPeriodicPt_lfsrStep (s : Word16) : IsPeriodicPt lfsrStep 65535 s := by
  have hpow : powX 16 65535 = 1 := by decide +kernel
  rw [IsPeriodicPt, IsFixedPt, ← stepAt_powX (n := 16) (by decide), hpow, stepAt_one]

/-- Where `x ^ k - 1` has an inverse `b`, the state 0 alone returns after `k` steps. -/
theorem eq_zero_of_isPeriodicPt (hk : k < 2 ^ 16) (hb : polyMul b (powX 16 k ^^^ 1) = 1)
    (hs : IsPeriodicPt lfsrStep k s) : s = 0 := by
  have hdiff : stepAt (powX 16 k ^^^ 1) s = 0 := by
    have hxor := stepAt_xor s (powX 16 k) 1
    simp only [stepAt_powX hk, hs.eq, stepAt_one, BitVec.xor_self] at hxor
    exact hxor
  calc s = stepAt (polyMul b (powX 16 k ^^^ 1)) s := by rw [hb, stepAt_one]
    _ = stepAt b 0 := by rw [stepAt_polyMul, hdiff]
    _ = 0 := stepAt_zero b

theorem prime_dvd_period {p : Nat} (hp : p.Prime) (hd : p ∣ 65535) :
    p = 3 ∨ p = 5 ∨ p = 17 ∨ p = 257 := by
  have hfactors : p ∣ 3 * (5 * (17 * 257)) := hd
  have heq {q : Nat} (hq : q.Prime) : p ∣ q ↔ p = q := Nat.prime_dvd_prime_iff_eq hp hq
  rwa [hp.dvd_mul, hp.dvd_mul, hp.dvd_mul, heq (by norm_num), heq (by norm_num),
    heq (by norm_num), heq (by norm_num)] at hfactors

/-- Each `x ^ (65535 / p) - 1` has the inverse given here. -/
theorem not_isPeriodicPt_div_prime (hs : s ≠ 0) {p : Nat} (hp : p.Prime) (hd : p ∣ 65535) :
    ¬ IsPeriodicPt lfsrStep (65535 / p) s := by
  refine fun hper => hs ?_
  obtain rfl | rfl | rfl | rfl := prime_dvd_period hp hd
  · exact eq_zero_of_isPeriodicPt (b := 0x9D5F) (by decide) (by decide +kernel) hper
  · exact eq_zero_of_isPeriodicPt (b := 0x0CD5) (by decide) (by decide +kernel) hper
  · exact eq_zero_of_isPeriodicPt (b := 0x1108) (by decide) (by decide +kernel) hper
  · exact eq_zero_of_isPeriodicPt (b := 0xDD84) (by decide) (by decide +kernel) hper

theorem minimalPeriod_lfsrStep (hs : s ≠ 0) : minimalPeriod lfsrStep s = 65535 :=
  minimalPeriod_eq_of_div_prime (isPeriodicPt_lfsrStep s)
    fun _ => not_isPeriodicPt_div_prime hs

end Period

/-- Settles O18: the period of `minimalPeriod_lfsrStep`. -/
theorem lfsrMaximalPeriod : Obligations.LfsrMaximalPeriod := by
  intro s hs
  refine ⟨(lfsrIter_eq_iterate _ s).trans (isPeriodicPt_lfsrStep s), fun k hpos hlt hret => ?_⟩
  rw [← minimalPeriod_lfsrStep hs] at hlt
  exact Function.not_isPeriodicPt_of_pos_of_lt_minimalPeriod hpos.ne' hlt
    ((lfsrIter_eq_iterate k s).symm.trans hret)

end Sys2Proof.Proofs

/-! PROOFS. The decryptor: the pad of a byte's index, `decrypt` as the XOR with it, the commands
DEC.START and DEC.BYTE, and their run over an input (43_decryptor.md R170 to R180). -/

namespace Sys2Proof.Proofs

open Sys2Proof Sys2Proof.Machine Sys2Proof.Certificates

/-! ### The pad (R180) -/

section Pad

variable {w : Word16} {j : Nat}

theorem lowByte_eq_setWidth (w : Word16) : lowByte w = w.setWidth 8 :=
  (BitVec.setWidth_eq_extractLsb' (by decide)).symm

theorem highByte_eq_setWidth (w : Word16) : highByte w = (w >>> 8).setWidth 8 :=
  BitVec.setWidth_ushiftRight_eq_extractLsb.symm

/-- The pad of index `j` where the keystream's first word is `w`: each word gives its low
and then its high byte. -/
def padByte (w : Word16) (j : Nat) : Byte := ((lfsrIter (j / 2) w) >>> (8 * (j % 2))).setWidth 8

theorem padByte_even (hj : j % 2 = 0) : padByte w j = lowByte (lfsrIter (j / 2) w) := by
  rw [lowByte_eq_setWidth, padByte, hj, Nat.mul_zero, BitVec.ushiftRight_zero]

theorem padByte_odd (hj : j % 2 = 1) : padByte w j = highByte (lfsrIter (j / 2) w) := by
  rw [highByte_eq_setWidth, padByte, hj, Nat.mul_one]

/-- Two indices on, the keystream has stepped once. -/
theorem padByte_add_two (w : Word16) (j : Nat) : padByte w (j + 2) = padByte (lfsrStep w) j := by
  rw [padByte, Nat.add_div_right j Nat.two_pos, Nat.add_mod_right, lfsrIter, padByte]

theorem lfsrIter_succ (k : Nat) (w : Word16) : lfsrIter (k + 1) w = lfsrStep (lfsrIter k w) := by
  simp only [lfsrIter_eq_iterate, Function.iterate_succ_apply']

/-- Word 0 is the generator's fixed point (R157). -/
theorem lfsrIter_zero_word (k : Nat) : lfsrIter k 0 = 0 := by
  rw [lfsrIter_eq_iterate]
  exact Function.iterate_fixed xorLinear_lfsrStep.map_zero k

theorem padByte_zero_word (j : Nat) : padByte 0 j = 0 := by
  have hshift : (0 : Word16) >>> (8 * (j % 2)) = 0 := BitVec.zero_ushiftRight
  rw [padByte, lfsrIter_zero_word, hshift]
  rfl

end Pad

/-! ### The function -/

/-- The bytes of an input from index `j` on, each XORed with its pad. -/
def xorPad (w : Word16) (j : Nat) (bytes : List Byte) : List Byte :=
  bytes.mapIdx fun i b => b ^^^ padByte w (j + i)

section XorPad

variable {w : Word16} {j : Nat}

theorem xorPad_cons (b : Byte) (rest : List Byte) :
    xorPad w j (b :: rest) = (b ^^^ padByte w j) :: xorPad w (j + 1) rest := by
  simp only [xorPad, List.mapIdx_cons, Nat.add_zero, Nat.add_assoc, Nat.add_comm 1]

theorem xorPad_add_two (bytes : List Byte) :
    xorPad w (j + 2) bytes = xorPad (lfsrStep w) j bytes := by
  simp only [xorPad, Nat.add_right_comm j 2, padByte_add_two]

theorem xorPad_length (bytes : List Byte) : (xorPad w j bytes).length = bytes.length :=
  List.length_mapIdx

theorem xorPad_getElem? {bytes : List Byte} {i : Nat} {b : Byte} (h : bytes[i]? = some b) :
    (xorPad w j bytes)[i]? = some (b ^^^ padByte w (j + i)) := by
  rw [xorPad, List.getElem?_mapIdx, h, Option.map_some]

theorem xorPad_xorPad (bytes : List Byte) : xorPad w j (xorPad w j bytes) = bytes := by
  induction bytes generalizing j with
  | nil => rfl
  | cons b rest ih => rw [xorPad_cons, xorPad_cons, ih, BitVec.xor_assoc, BitVec.xor_self,
      BitVec.xor_zero]

theorem xorPad_zero_word (bytes : List Byte) : xorPad 0 j bytes = bytes := by
  induction bytes generalizing j with
  | nil => rfl
  | cons b rest ih => rw [xorPad_cons, padByte_zero_word, ih, xor_zero]

/-- A pair takes the pads of indices 0 and 1, and what follows it the pads from index 2 on. -/
theorem decryptFrom_eq_xorPad (w : Word16) (bytes : List Byte) :
    decryptFrom w bytes = xorPad w 0 bytes := by
  have hlow (w : Word16) : padByte w 0 = lowByte w := padByte_even rfl
  have hhigh (w : Word16) : padByte w 1 = highByte w := padByte_odd rfl
  induction w, bytes using decryptFrom.induct with
  | case1 w => rfl
  | case2 w b => rw [xorPad_cons, hlow]; rfl
  | case3 w b c rest ih =>
    rw [decryptFrom, ih, xorPad_cons, xorPad_cons, hlow, hhigh,
      xorPad_add_two]

end XorPad

/-- The keystream's first word is one step after the key (R171). -/
theorem decrypt_eq_xorPad (input : List Byte) (key : Word16) :
    decrypt input key = xorPad (lfsrStep key) 0 input :=
  decryptFrom_eq_xorPad _ input

/-- Settles O21: the pad of index `j` is the byte the statement names. -/
theorem decryptClosedForm : Obligations.DecryptClosedForm := by
  intro input key
  rw [decrypt_eq_xorPad]
  refine ⟨xorPad_length input, fun j b hb => ?_⟩
  rw [xorPad_getElem? hb, Nat.zero_add, padByte, lfsrIter]

/-- Settles O22: the pad is the same both times, and is 0 for key zero. -/
theorem decryptIdentities : Obligations.DecryptIdentities := by
  refine ⟨fun d k => ?_, fun d => ?_⟩
  · rw [decrypt_eq_xorPad, decrypt_eq_xorPad, xorPad_xorPad]
  · rw [decrypt_eq_xorPad, xorLinear_lfsrStep.map_zero, xorPad_zero_word]

/-! ### The commands DEC.START and DEC.BYTE -/

section Command

variable {s : State} {b : Byte} {key : Word16}

theorem exec_decStart_ready (he : s.err = 0) : exec (.decStart key) s =
    .next (answered { s with ks := lfsrStep key, ksv := true, dpos := 0 } 0 []) :=
  exec_of_whenReady
    (f := fun s => respond 0 [] { s with ks := lfsrStep key, ksv := true, dpos := 0 }) rfl he

/-- The work of DEC.BYTE with a loaded generator (R177). -/
def decByteLoaded (b : Byte) (s : State) : State :=
  if s.ph then answered { s with ks := lfsrStep s.ks }.countDpos 0 [b ^^^ highByte s.ks]
  else answered s.countDpos 0 [b ^^^ lowByte s.ks]

theorem exec_decByte_loaded (he : s.err = 0) (hv : s.ksv = true) :
    exec (.decByte b) s = .next (decByteLoaded b s) :=
  exec_loaded (f := decByteLoaded b) rfl he hv

theorem exec_decByte_even (he : s.err = 0) (hv : s.ksv = true) (hp : s.dpos.getLsbD 0 = false) :
    exec (.decByte b) s = .next (answered s.countDpos 0 [b ^^^ lowByte s.ks]) :=
  (exec_decByte_loaded he hv).trans (congrArg _ (if_neg (Bool.eq_false_iff.mp hp)))

theorem exec_decByte_odd (he : s.err = 0) (hv : s.ksv = true) (hp : s.dpos.getLsbD 0 = true) :
    exec (.decByte b) s =
      .next (answered { s with ks := lfsrStep s.ks }.countDpos 0 [b ^^^ highByte s.ks]) :=
  (exec_decByte_loaded he hv).trans (congrArg _ (if_pos hp))

end Command

/-- Settles O19: the model's step is the rule's shifts (`lfsrStep_eq_shifts`). -/
theorem decStartMeaning : Obligations.DecStartMeaning := by
  intro s key n
  have hks : lfsrStep key = (key >>> 1) ||| ((n &&& 1) <<< 15) := lfsrStep_eq_shifts key
  refine ⟨fun he => ?_, refusedIn_of_whenReady rfl,
    decodeRequest_field (mk := .decStart) (by decide) (fun _ => rfl) key⟩
  rw [exec_decStart_ready he, hks]

/-- Settles O20: both parities count DPOS alike (`State.countDpos`), and `fit64_succ` gives the
count that fits. -/
theorem decByteMeaning : Obligations.DecByteMeaning := by
  intro s b
  refine ⟨fun he hv => ⟨s.countDpos.dpos, s.countDpos.free, fun hfit => ⟨?_, ?_⟩,
    fun hp => ?_, fun hp => ?_⟩, exec_unloaded (f := decByteLoaded b) rfl, refusedIn_of_whenReady rfl,
    decodeRequest_field (mk := .decByte) (by decide) (fun _ => rfl) b⟩
  · exact fit64_succ _ _ hfit
  · rw [countDpos_free, fitDraws_of_lt hfit, Nat.add_zero]
  · rw [exec_decByte_even he hv hp, lowByte_eq_setWidth]
    rfl
  · rw [exec_decByte_odd he hv hp, highByte_eq_setWidth]
    rfl

/-! ### The run (R178) -/

/-- `j` bytes have been taken, of a keystream whose first word is `w`. -/
structure DecryptingAt (w : Word16) (j : Nat) (s : State) : Prop where
  err : s.err = 0
  ksv : s.ksv = true
  dpos : s.dpos.toNat = j
  ks : s.ks = lfsrIter (j / 2) w

section Run

variable {s : State} {w : Word16} {j : Nat}

theorem DecryptingAt.phase (h : DecryptingAt w j s) : s.dpos.getLsbD 0 = decide (j % 2 = 1) := by
  rw [BitVec.getLsbD, Nat.testBit_zero, h.dpos]

theorem decryptingAt_decStart (key : Word16) (he : s.err = 0) : DecryptingAt (lfsrStep key) 0
    (answered { s with ks := lfsrStep key, ksv := true, dpos := 0 } 0 []) :=
  ⟨he, rfl, rfl, rfl⟩

/-- DEC.BYTE answers the byte XORed with its pad and takes it; after its high byte the word
steps. -/
theorem exec_decByte_decryptingAt (h : DecryptingAt w j s) (hj : j + 1 < 2 ^ 64) (b : Byte) :
    ∃ t, exec (.decByte b) s = .next t ∧ t.resp.data = [b ^^^ padByte w j] ∧
      DecryptingAt w (j + 1) t := by
  have hcount : s.countDpos.dpos.toNat = j + 1 := by
    rw [countDpos_dpos, h.dpos, fit64_toNat _ _ hj]
  obtain hpar | hpar := Nat.mod_two_eq_zero_or_one j
  · have hhalf : (j + 1) / 2 = j / 2 := by omega
    refine ⟨_, exec_decByte_even h.err h.ksv (by rw [h.phase, hpar]; rfl), ?_, h.err, h.ksv,
      hcount, ?_⟩
    · rw [padByte_even hpar, ← h.ks]
      rfl
    · rw [hhalf]
      exact h.ks
  · have hhalf : (j + 1) / 2 = j / 2 + 1 := by omega
    refine ⟨_, exec_decByte_odd h.err h.ksv (by rw [h.phase, hpar]; rfl), ?_, h.err, h.ksv,
      hcount, ?_⟩
    · rw [padByte_odd hpar, ← h.ks]
      rfl
    · rw [hhalf, lfsrIter_succ, ← h.ks]
      rfl

theorem runAll_decByte (bytes : List Byte) (h : DecryptingAt w j s)
    (hfit : j + bytes.length < 2 ^ 64) :
    ∃ t, runAll (bytes.map .decByte) s = some (t, xorPad w j bytes) ∧
      DecryptingAt w (j + bytes.length) t := by
  induction bytes generalizing s j with
  | nil => exact ⟨s, rfl, h⟩
  | cons b rest ih =>
    rw [List.length_cons, ← Nat.add_assoc, Nat.add_right_comm] at hfit ⊢
    obtain ⟨u, hexec, hdata, hu⟩ := exec_decByte_decryptingAt h (by omega) b
    obtain ⟨t, hrun, ht⟩ := ih hu hfit
    refine ⟨t, ?_, ht⟩
    rw [List.map_cons, runAll_cons hexec, hrun, hdata, xorPad_cons]
    rfl

end Run

/-- Settles O23: DEC.START begins the run of `runAll_decByte` at index 0. -/
theorem decBufRefinesDecrypt : Obligations.DecBufRefinesDecrypt := by
  intro s key input he hlen
  have hstart := decryptingAt_decStart key he
  rw [← Nat.zero_add input.length] at hlen
  obtain ⟨t, hrun, ht⟩ := runAll_decByte input hstart hlen
  rw [Nat.zero_add] at ht
  refine ⟨t, ?_, ht.ks, ht.dpos, ht.err⟩
  rw [decBuf, runAll_cons_silent (exec_decStart_ready he) rfl, hrun, decrypt_eq_xorPad]

end Sys2Proof.Proofs

/-! PROOFS. `decompress`: the scan that knows no capacity, the cut at the capacity, and the bound on
what is emitted (44_decompressor.md R185 to R192). -/

namespace Sys2Proof.Proofs

open Sys2Proof Sys2Proof.Machine Sys2Proof.Certificates

/-! ### The function

`decompress` is a scan that knows no capacity, cut at the capacity. The scan takes one byte at a
time, as RLE.BYTE does, so that the run of the commands is compared with it byte by byte. -/

/-- A scan's answer after the bytes `out`. -/
def prepend (out : List Byte) (r : List Byte × Option Error) : List Byte × Option Error :=
  (out ++ r.1, r.2)

/-- A scan's answer cut at a capacity (R190). -/
def limit (cap : Nat) (r : List Byte × Option Error) : List Byte × Option Error :=
  if r.1.length ≤ cap then r else (r.1.take cap, some .capacity)

/-- What the bytes of an input emit and how they end, with no capacity; the flag says whether an
escape is pending before them. -/
def scan (te : TrailingEscape) (dict : Vector Byte 16) : Bool → List Byte → List Byte × Option Error
  | false, [] => ([], none)
  | true, [] =>
    match te with
    | .error => ([], some .truncatedEscape)
    | .literal => ([Config.sentinel], none)
  | false, b :: rest =>
    if b = Config.sentinel then scan te dict true rest else prepend [b] (scan te dict false rest)
  | true, c :: rest => prepend (tokenOutput dict c) (scan te dict false rest)

section Function

variable {te : TrailingEscape} {dict : Vector Byte 16} {cap : Nat}
  {out bytes rest : List Byte} {b c : Byte} {r : List Byte × Option Error}

theorem prepend_prepend : prepend out (prepend bytes r) = prepend (out ++ bytes) r := by
  simp only [prepend, List.append_assoc]

theorem limit_of_le (h : r.1.length ≤ cap) : limit cap r = r := if_pos h

theorem limit_of_lt (h : cap < r.1.length) : limit cap r = (r.1.take cap, some .capacity) :=
  if_neg (Nat.not_le.mpr h)

theorem limit_fst : (limit cap r).1 = r.1.take cap := by
  obtain h | h := le_or_gt r.1.length cap
  · rw [limit_of_le h, List.take_of_length_le h]
  · rw [limit_of_lt h]

/-- Bytes that fit stand before the cut. -/
theorem limit_prepend_fits (h : out.length ≤ cap) :
    limit cap (prepend out r) = prepend out (limit (cap - out.length) r) := by
  have hlen : (prepend out r).1.length = out.length + r.1.length := List.length_append
  obtain hr | hr := le_or_gt r.1.length (cap - out.length)
  · rw [limit_of_le hr, limit_of_le (by omega)]
  · rw [limit_of_lt hr, limit_of_lt (by omega), prepend, prepend, List.take_append,
      List.take_of_length_le h]

/-- Bytes that do not fit are cut, whatever follows them. -/
theorem limit_prepend_full (h : cap < out.length) :
    limit cap (prepend out r) = (out.take cap, some .capacity) := by
  have hlen : (prepend out r).1.length = out.length + r.1.length := List.length_append
  rw [limit_of_lt (by omega), prepend, List.take_append_of_le_length h.le]

theorem scan_sentinel : scan te dict false (Config.sentinel :: rest) = scan te dict true rest := rfl

theorem scan_literal (hb : b ≠ Config.sentinel) :
    scan te dict false (b :: rest) = prepend [b] (scan te dict false rest) := if_neg hb

theorem scan_escaped :
    scan te dict true (c :: rest) = prepend (tokenOutput dict c) (scan te dict false rest) := rfl

/-- A byte that opens no escape, the input's last one included (R187). -/
theorem decompressFrom_literal (hb : b ≠ Config.sentinel) :
    decompressFrom te dict cap out (b :: rest) =
      if out.length + [b].length ≤ cap then decompressFrom te dict cap (out ++ [b]) rest
      else (out ++ [b].take (cap - out.length), some .capacity) := by
  have hcut (h : ¬ out.length + [b].length ≤ cap) : out ++ [b].take (cap - out.length) = out := by
    rw [show cap - out.length = 0 from Nat.sub_eq_zero_of_le (Nat.not_lt.mp h), List.take_zero,
      List.append_nil]
  have hstep : decompressFrom te dict cap out (b :: rest) =
      if out.length < cap then decompressFrom te dict cap (out ++ [b]) rest
      else (out, some .capacity) := by
    cases rest <;> exact if_neg hb
  rw [hstep]
  exact ite_congr rfl (fun _ => rfl) fun h => by rw [hcut h]

theorem decompressFrom_escape :
    decompressFrom te dict cap out (Config.sentinel :: c :: rest) =
      if out.length + (tokenOutput dict c).length ≤ cap then
        decompressFrom te dict cap (out ++ tokenOutput dict c) rest
      else (out ++ (tokenOutput dict c).take (cap - out.length), some .capacity) := rfl

/-- A lone sentinel is an error, or is emitted as one byte (R192). -/
theorem decompressFrom_lone (h : out.length ≤ cap) :
    decompressFrom te dict cap out [Config.sentinel] =
      prepend out (limit (cap - out.length) (scan te dict true [])) := by
  cases te with
  | error => simp [decompressFrom, scan, limit, prepend]
  | literal =>
    obtain hlt | rfl := Nat.lt_or_eq_of_le h
    · have hroom : 1 ≤ cap - out.length := Nat.sub_pos_of_lt hlt
      simp [decompressFrom, scan, limit, prepend, hlt, hroom]
    · simp [decompressFrom, scan, limit, prepend]

/-- A token's bytes are appended where they fit, else cut, and the rest of the scan follows. -/
theorem append_or_cut {x : List Byte × Option Error} (h : out.length ≤ cap)
    (hx : (out ++ bytes).length ≤ cap →
      x = prepend (out ++ bytes) (limit (cap - (out ++ bytes).length) r)) :
    (if out.length + bytes.length ≤ cap then x
      else (out ++ bytes.take (cap - out.length), some .capacity)) =
      prepend out (limit (cap - out.length) (prepend bytes r)) := by
  rw [List.length_append] at hx
  split
  case isTrue hfit =>
    rw [hx hfit, limit_prepend_fits (by omega), prepend_prepend, Nat.sub_sub]
  case isFalse hfull =>
    rw [limit_prepend_full (by omega), prepend]

/-- The scan from an output already emitted is the capacity-free scan, cut at what is left. -/
theorem decompressFrom_eq_limit (te : TrailingEscape) (dict : Vector Byte 16) (cap : Nat) :
    ∀ {out : List Byte} (input : List Byte), out.length ≤ cap →
      decompressFrom te dict cap out input =
        prepend out (limit (cap - out.length) (scan te dict false input))
  | out, [], _ => by
    rw [scan, limit_of_le (Nat.zero_le _), prepend, List.append_nil, decompressFrom]
  | out, b :: rest, h => by
    by_cases hb : b = Config.sentinel
    case neg =>
      rw [decompressFrom_literal hb, scan_literal hb]
      exact append_or_cut h (decompressFrom_eq_limit te dict cap rest)
    subst hb
    match rest with
    | [] => exact decompressFrom_lone h
    | c :: rest =>
      rw [decompressFrom_escape, scan_sentinel, scan_escaped]
      exact append_or_cut h (decompressFrom_eq_limit te dict cap rest)

theorem decompress_eq_limit (te : TrailingEscape) (input : List Byte) (dict : Vector Byte 16)
    (cap : Nat) : decompress te input dict cap = limit cap (scan te dict false input) :=
  decompressFrom_eq_limit te dict cap input (Nat.zero_le cap)

/-- R191's bound on what `n` bytes emit: 15 for two, and 1 for one left over. -/
def expansion (n : Nat) : Nat := 15 * (n / 2) + n % 2

theorem expansion_add_two (n : Nat) : expansion (n + 2) = 15 + expansion n := by
  unfold expansion
  omega

theorem expansion_lt_succ (n : Nat) : expansion n < expansion (n + 1) := by
  unfold expansion
  omega

theorem expansion_le (n : Nat) : expansion n ≤ 16 * n := by
  unfold expansion
  omega

/-- A pending escape counts as the one byte that opened it. -/
theorem scan_length_le (te : TrailingEscape) (dict : Vector Byte 16) (esc : Bool)
    (input : List Byte) :
    (scan te dict esc input).1.length ≤ expansion (input.length + esc.toNat) := by
  induction input generalizing esc with
  | nil => cases esc <;> cases te <;> simp [scan, expansion]
  | cons b rest ih =>
    cases esc with
    | true =>
      rw [scan_escaped, prepend, List.length_append, List.length_cons, Bool.toNat_true,
        expansion_add_two]
      exact Nat.add_le_add (tokenOutput_length dict b) (ih false)
    | false =>
      by_cases hb : b = Config.sentinel
      · rw [hb, scan_sentinel]
        exact ih true
      · rw [scan_literal hb]
        exact (ih false).trans_lt (expansion_lt_succ rest.length)

theorem scan_status (te : TrailingEscape) (dict : Vector Byte 16) (esc : Bool) (input : List Byte) :
    (scan te dict esc input).2 ≠ some .capacity := by
  induction input generalizing esc with
  | nil => cases esc <;> cases te <;> exact nofun
  | cons b rest ih =>
    cases esc with
    | true => exact ih false
    | false =>
      by_cases hb : b = Config.sentinel
      · rw [hb, scan_sentinel]
        exact ih true
      · rw [scan_literal hb]
        exact ih false

end Function

/-- Settles O37: the cut shortens the scan, and leaves it whole where R191's bound fits. -/
theorem decompressExpansion : Obligations.DecompressExpansion := by
  intro te input dict cap
  have hscan : (scan te dict false input).1.length ≤ expansion input.length :=
    scan_length_le te dict false input
  rw [decompress_eq_limit]
  refine ⟨?_, fun hcap => ?_⟩
  · rw [limit_fst, List.length_take]
    exact (Nat.min_le_right _ _).trans hscan
  · rw [limit_of_le (hscan.trans hcap)]
    exact scan_status te dict false input

/-- Settles O38: 16 bytes for each of the input hold the whole scan. -/
theorem decompressCapacity : Obligations.DecompressCapacity := by
  intro te input dict cap limited unlimited
  have hscan : (scan te dict false input).1.length ≤ expansion input.length :=
    scan_length_le te dict false input
  have hunlimited : unlimited = scan te dict false input :=
    (decompress_eq_limit ..).trans (limit_of_le (hscan.trans (expansion_le input.length)))
  have hlimited : limited = limit cap unlimited := by
    rw [hunlimited]
    exact decompress_eq_limit ..
  rw [hlimited]
  refine ⟨limit_fst, ⟨fun hcapacity => ?_, fun hlt => ?_⟩, limit_of_le⟩
  · by_contra hle
    rw [limit_of_le (Nat.not_lt.mp hle), hunlimited] at hcapacity
    exact scan_status te dict false input hcapacity
  · rw [limit_of_lt hlt]

end Sys2Proof.Proofs

/-! PROOFS. The decompressor's commands RLE.DICT, RLE.START, RLE.BYTE and RLE.END, the tokens, and
the run of RLE.BUF (44_decompressor.md R187 to R189, R195 to R199). -/

namespace Sys2Proof.Proofs

open Sys2Proof Sys2Proof.Machine Sys2Proof.Certificates

/-! ### Nibbles and entries -/

/-- Two fields side by side, as one number. -/
theorem ofNat_high_low {m n : Nat} (w : Nat) (x : BitVec m) (y : BitVec n) :
    BitVec.ofNat w (x.toNat * 2 ^ n + y.toNat) = x.setWidth w <<< n ||| y.setWidth w := by
  have happend : (x ++ y).toNat = x.toNat * 2 ^ n + y.toNat := by
    rw [BitVec.toNat_append, ← Nat.shiftLeft_add_eq_or_of_lt y.isLt, Nat.shiftLeft_eq]
  rw [← happend, BitVec.ofNat_toNat, BitVec.setWidth_append_eq_shiftLeft_setWidth_or]

theorem runByte_eq_ofNat (count index : BitVec 4) :
    runByte count index = BitVec.ofNat 8 (count.toNat * 16 + index.toNat) :=
  (ofNat_high_low 8 count index).symm

section Entry

variable {dict : Vector Byte 16} {c : Byte}

theorem ne_zero_of_count_ne_zero (hcount : c.toNat / 16 ≠ 0) : c ≠ 0x00 := by
  rintro rfl
  exact hcount rfl

theorem tokenOutput_run (hc : c ≠ 0x00) {j : Fin 16} (hj : j.val = c.toNat % 16) :
    tokenOutput dict c = List.replicate (c.toNat / 16) dict[j] := by
  have hentry : dictEntry dict (runIndex c) = dict[j] := by
    simp only [dictEntry, runIndex_toNat, ← hj]
    rfl
  rw [tokenOutput, if_neg hc, runCount_eq, hentry]

/-- A run of count 0 emits nothing (R189). -/
theorem tokenOutput_of_runCount_zero (hc : c ≠ 0x00) (hcount : runCount c = 0) :
    tokenOutput dict c = [] := by
  rw [tokenOutput, if_neg hc, hcount, List.replicate_zero]

end Entry

/-! ### RLE.DICT and RLE.START -/

section Dict

variable {s : State} {i : BitVec 4} {v : Byte}

theorem exec_rleDict_ready (he : s.err = 0) :
    exec (.rleDict i v) s = .next (if s.rlev then takeError .protocol [] s else answered
      { s with dict := s.dict.set i.toNat v, dv := s.dv ||| (1#16 <<< i.toNat) } 0 []) :=
  congrArg Host.Outcome.next (whenReady_ready he)

theorem exec_rleDict_idle (he : s.err = 0) (hr : s.rlev = false) :
    exec (.rleDict i v) s = .next (answered
      { s with dict := s.dict.set i.toNat v, dv := s.dv ||| (1#16 <<< i.toNat) } 0 []) :=
  (exec_rleDict_ready he).trans (congrArg _ (if_neg (Bool.eq_false_iff.mp hr)))

theorem exec_rleDict_busy (he : s.err = 0) (hr : s.rlev = true) :
    exec (.rleDict i v) s = .next (stopped s 7 []) :=
  calc exec (.rleDict i v) s
      = .next (takeError .protocol [] s) :=
        (exec_rleDict_ready he).trans (congrArg _ (if_pos hr))
    _ = .next (stopped s 7 []) := congrArg _ (takeError_eq_stopped .protocol [] he)

theorem exec_rleStart_ready {cap : Word64} (he : s.err = 0) :
    exec (.rleStart cap) s = .next (answered
      { s with cap := cap, rpos := 0, ocnt := 0, esc := false, rlev := true } 0 []) :=
  congrArg Host.Outcome.next (whenReady_ready he)

end Dict

/-- Settles O30: a set entry is found in its place alone, and DV's new bit likewise. -/
theorem rleDictMeaning : Obligations.RleDictMeaning := by
  intro s i v
  refine ⟨fun he hr => ⟨_, _, exec_rleDict_idle he hr, fun j => ⟨?_, ?_⟩⟩, exec_rleDict_busy,
    refusedIn_of_whenReady rfl, ?_⟩
  · simp only [Fin.getElem_fin, Vector.getElem_set, eq_comm]
  · rw [BitVec.getLsbD_or, ← BitVec.twoPow_eq, BitVec.getLsbD_twoPow]
    simp [i.isLt, Bool.or_comm, Bool.beq_eq_decide_eq, eq_comm (a := i.toNat)]
  · have hword : BitVec.ofNat 64 (i.toNat * 256 + v.toNat) =
        placeByte v 0 ||| i.setWidth 64 <<< 8 := by
      rw [placeByte, BitVec.shiftLeft_zero, BitVec.or_comm]
      exact ofNat_high_low 64 i v
    rw [hword]
    exact decodeRequest_encode_rleDict i v

/-- Settles O31: the command's work waits for ERR = 0 alone. -/
theorem rleStartMeaning : Obligations.RleStartMeaning :=
  fun _ _ => ⟨exec_rleStart_ready, refusedIn_of_whenReady rfl, decodeRequest_commandWord⟩

/-! ### Deliveries -/

section Deliver

variable {i : Instr} {s u : State} {out : List Byte} {v : State → Word64}

theorem deliver_eq_answered (h : out.length ≤ u.cap.toNat - u.ocnt.toNat) :
    deliver (fun _ => 0) out u =
      answered { u with ocnt := BitVec.ofNat 64 (u.ocnt.toNat + out.length) } 0 out := by
  have hcount : BitVec.ofNat 64 (u.ocnt.toNat + out.length) =
      u.ocnt + BitVec.ofNat 64 out.length := by
    rw [BitVec.ofNat_add, BitVec.ofNat_toNat, BitVec.setWidth_eq]
  rw [deliver_fits h, hcount]
  rfl

theorem deliver_eq_stopped (he : u.err = 0) (h : u.cap.toNat - u.ocnt.toNat < out.length) :
    deliver v out u = stopped { u with ocnt := u.cap, rlev := false } 4
      (out.take (u.cap.toNat - u.ocnt.toNat)) :=
  (deliver_full h).trans (takeError_eq_stopped .capacity _ he)

/-- With no room left an output is cut to nothing. -/
theorem deliver_of_full (he : u.err = 0) (hfull : u.ocnt = u.cap) (hout : out ≠ []) :
    deliver v out u = stopped { u with rlev := false } 4 [] := by
  have hroom : u.cap.toNat - u.ocnt.toNat = 0 := by rw [hfull, Nat.sub_self]
  rw [deliver_eq_stopped he (hroom ▸ List.length_pos_of_ne_nil hout), hroom, List.take_zero,
    ← hfull]

/-- The response a state holds does not matter to a delivery. -/
theorem deliver_resp (r : Response) :
    deliver (fun _ => 0) out { u with resp := r } = deliver (fun _ => 0) out u := rfl

/-- An instruction that delivers answers an output that fits and is stopped by one that does not. -/
theorem exec_of_deliver (hexec : exec i s = .next (deliver (fun _ => 0) out u)) (he : u.err = 0) :
    (out.length ≤ u.cap.toNat - u.ocnt.toNat → exec i s = .next
      (answered { u with ocnt := BitVec.ofNat 64 (u.ocnt.toNat + out.length) } 0 out)) ∧
    (u.cap.toNat - u.ocnt.toNat < out.length → exec i s = .next (stopped
      { u with ocnt := u.cap, rlev := false } 4 (out.take (u.cap.toNat - u.ocnt.toNat)))) :=
  ⟨fun h => hexec.trans (congrArg _ (deliver_eq_answered h)),
    fun h => hexec.trans (congrArg _ (deliver_eq_stopped he h))⟩

end Deliver

/-! ### RLE.BYTE -/

/-- The state after a byte is counted, at a token boundary. -/
def byteTaken (s : State) : State := { s.countRpos with esc := false }

/-- The state after the sentinel is taken at a token boundary. -/
def escapeOpened (s : State) : State := answered { byteTaken s with esc := true } 0 []

/-- The second byte of an escape needs no entry, or one that is written (R188, R189). -/
def EntryReady (c : Byte) (s : State) : Prop :=
  c = 0x00 ∨ runCount c = 0 ∨ s.dv.getLsbD (runIndex c).toNat = true

section Beat

variable {s : State} {b : Byte}

/-- A run of at least one byte needs its entry. -/
theorem entryReady_iff {j : Fin 16} (hj : j.val = b.toNat % 16) (hcount : b.toNat / 16 ≠ 0) :
    EntryReady b s ↔ s.dv.getLsbD j = true := by
  rw [EntryReady, runCount_eq, runIndex_toNat, ← hj,
    or_iff_right (ne_zero_of_count_ne_zero hcount), or_iff_right hcount]

theorem byteTaken_eq (hesc : s.esc = false) : byteTaken s = s.countRpos := by
  rw [byteTaken, ← hesc]
  rfl

theorem rleBeat_opens (he : s.err = 0) (hr : s.rlev = true) (hesc : s.esc = false) :
    rleBeat Config.sentinel s = escapeOpened s := by
  obtain ⟨-, -, h⟩ | ⟨-, hne, -⟩ | ⟨ht, -⟩ | ⟨ht, -⟩ := rleBeat_cases (b := Config.sentinel) he hr
  · exact h
  · exact absurd rfl hne
  · cases hesc.symm.trans ht
  · cases hesc.symm.trans ht

theorem rleBeat_literal (he : s.err = 0) (hr : s.rlev = true) (hesc : s.esc = false)
    (hb : b ≠ Config.sentinel) : rleBeat b s = deliver (fun _ => 0) [b] (byteTaken s) := by
  obtain ⟨-, hs, -⟩ | ⟨-, -, h⟩ | ⟨ht, -⟩ | ⟨ht, -⟩ := rleBeat_cases (b := b) he hr
  · exact absurd hs hb
  · rw [h, byteTaken_eq hesc]
  · cases hesc.symm.trans ht
  · cases hesc.symm.trans ht

theorem rleBeat_escaped (he : s.err = 0) (hr : s.rlev = true) (hesc : s.esc = true)
    (hentry : EntryReady b s) :
    rleBeat b s = deliver (fun _ => 0) (tokenOutput s.dict b) (byteTaken s) := by
  obtain ⟨hf, -⟩ | ⟨hf, -⟩ | ⟨-, hne, hrun, hdv, -⟩ | ⟨-, -, h⟩ := rleBeat_cases (b := b) he hr
  · cases hesc.symm.trans hf
  · cases hesc.symm.trans hf
  · obtain h0 | h0 | h1 := hentry
    · exact absurd h0 hne
    · exact absurd h0 hrun.ne'
    · cases hdv.symm.trans h1
  · exact h

theorem rleBeat_unwritten (he : s.err = 0) (hr : s.rlev = true) (hesc : s.esc = true)
    (hentry : ¬ EntryReady b s) : rleBeat b s = stopped (byteTaken s) 7 [] := by
  obtain ⟨hf, -⟩ | ⟨hf, -⟩ | ⟨-, -, -, -, h⟩ | ⟨-, hready, -⟩ := rleBeat_cases (b := b) he hr
  · cases hesc.symm.trans hf
  · cases hesc.symm.trans hf
  · exact h.trans (takeError_eq_stopped .protocol [] he)
  · exact absurd hready hentry

end Beat

/-- Settles O32: every branch is one of the four beats; `exec_of_deliver` says what it delivers. -/
theorem rleByteMeaning : Obligations.RleByteMeaning := by
  intro s b _
  refine ⟨fun he hr => ⟨(byteTaken s).rpos, (byteTaken s).free, fun hfit => ⟨?_, ?_⟩, ?_⟩,
    fun he hr => ?_, refusedIn_of_whenReady rfl,
    decodeRequest_field (mk := .rleByte) (by decide) (fun _ => rfl) b⟩
  · exact fit64_succ _ _ hfit
  · exact congrArg (s.free + ·) (fitDraws_of_lt hfit)
  · intro t room emits
    have hemits {out : List Byte} (h : rleBeat b s = deliver (fun _ => 0) out (byteTaken s)) :
        emits out := exec_of_deliver (i := .rleByte b) (congrArg Host.Outcome.next h) he
    refine ⟨?opens, ?literal, ?escaped, ?empty,
      fun j hj hesc hcount => ⟨fun hdv => ?run, fun hdv => ?unwritten⟩⟩
    case opens =>
      rintro hesc rfl
      exact congrArg Host.Outcome.next (rleBeat_opens he hr hesc)
    case literal => exact fun hesc hb => hemits (rleBeat_literal he hr hesc hb)
    case escaped =>
      rintro hesc rfl
      exact hemits (rleBeat_escaped he hr hesc (.inl rfl))
    case empty =>
      intro hesc hb hcount
      have hzero : runCount b = 0 := (runCount_eq b).trans hcount
      rw [← tokenOutput_of_runCount_zero hb hzero]
      exact hemits (rleBeat_escaped he hr hesc (.inr (.inl hzero)))
    case run =>
      rw [← tokenOutput_run (ne_zero_of_count_ne_zero hcount) hj]
      exact hemits (rleBeat_escaped he hr hesc ((entryReady_iff hj hcount).mpr hdv))
    case unwritten =>
      have hentry : ¬ EntryReady b s := by
        rw [entryReady_iff hj hcount, hdv]
        exact nofun
      exact congrArg Host.Outcome.next (rleBeat_unwritten he hr hesc hentry)
  · exact congrArg Host.Outcome.next
      ((rleBeat_inactive he hr).trans (takeError_eq_stopped .protocol [] he))

/-! ### RLE.END -/

section Finish

variable {te : TrailingEscape} {s : State}

theorem rleFinish_inactive (he : s.err = 0) (hr : s.rlev = false) :
    rleFinish te s = stopped s 7 [] :=
  calc rleFinish te s
      = if s.rlev then _ else _ := whenReady_ready he
    _ = takeError .protocol [] s := if_neg (Bool.eq_false_iff.mp hr)
    _ = stopped s 7 [] := takeError_eq_stopped .protocol [] he

theorem rleFinish_boundary (he : s.err = 0) (hr : s.rlev = true) (hesc : s.esc = false) :
    rleFinish te s = answered { s with rlev := false } s.ocnt [] :=
  calc rleFinish te s
      = if s.rlev then _ else _ := whenReady_ready he
    _ = if s.esc then _ else _ := if_pos hr
    _ = answered { s with rlev := false } s.ocnt [] := if_neg (Bool.eq_false_iff.mp hesc)

theorem rleFinish_error (he : s.err = 0) (hr : s.rlev = true) (hesc : s.esc = true) :
    rleFinish .error s = stopped { s with rlev := false, esc := false } 6 [] :=
  calc rleFinish .error s
      = if s.rlev then _ else _ := whenReady_ready he
    _ = if s.esc then _ else _ := if_pos hr
    _ = takeError .truncatedEscape [] { s with rlev := false, esc := false } := if_pos hesc
    _ = stopped { s with rlev := false, esc := false } 6 [] :=
      takeError_eq_stopped .truncatedEscape [] he

theorem rleFinish_literal (he : s.err = 0) (hr : s.rlev = true) (hesc : s.esc = true) :
    rleFinish .literal s =
      deliver State.ocnt [Config.sentinel] { s with rlev := false, esc := false } :=
  calc rleFinish .literal s
      = if s.rlev then _ else _ := whenReady_ready he
    _ = if s.esc then _ else _ := if_pos hr
    _ = deliver State.ocnt [Config.sentinel] { s with rlev := false, esc := false } := if_pos hesc

theorem rleFinish_literal_fits (he : s.err = 0) (hr : s.rlev = true) (hesc : s.esc = true)
    (hroom : s.ocnt.toNat < s.cap.toNat) :
    rleFinish .literal s = answered
      { s with rlev := false, esc := false, ocnt := s.ocnt + 1 } (s.ocnt + 1) [Config.sentinel] :=
  (rleFinish_literal he hr hesc).trans (deliver_fits (Nat.sub_pos_of_lt hroom))

theorem rleFinish_literal_full (he : s.err = 0) (hr : s.rlev = true) (hesc : s.esc = true)
    (hfull : s.ocnt = s.cap) :
    rleFinish .literal s = stopped { s with rlev := false, esc := false } 4 [] :=
  (rleFinish_literal he hr hesc).trans (deliver_of_full he hfull (List.cons_ne_nil _ _))

end Finish

/-- Settles O34: the two ways a pending escape can end. -/
theorem rleFinishEscape : Obligations.RleFinishEscape :=
  ⟨fun _ => rfl, fun _ he hr hesc => ⟨rleFinish_error he hr hesc,
    rleFinish_literal_fits he hr hesc, rleFinish_literal_full he hr hesc⟩⟩

/-- Settles O33: with OCNT at most CAP the output has room or is full. -/
theorem rleEndMeaning : Obligations.RleEndMeaning := by
  intro s
  refine ⟨fun he hr hesc => congrArg _ (rleFinish_boundary he hr hesc), fun he hr hesc hle => ?_,
    fun he hr => congrArg _ (rleFinish_inactive he hr), refusedIn_of_whenReady rfl, rfl⟩
  refine congrArg Host.Outcome.next (?_ : rleFinish Config.trailingEscape s = _)
  cases Config.trailingEscape with
  | error => exact rleFinish_error he hr hesc
  | literal =>
    by_cases hroom : s.ocnt.toNat < s.cap.toNat
    · exact (rleFinish_literal_fits he hr hesc hroom).trans (if_pos hroom).symm
    · have hfull : s.ocnt = s.cap :=
        BitVec.eq_of_toNat_eq (Nat.le_antisymm hle (Nat.not_lt.mp hroom))
      exact (rleFinish_literal_full he hr hesc hfull).trans (if_neg hroom).symm

/-! ### The tokens -/

section Token

variable {s : State} {b c : Byte} {count index : BitVec 4} {j : Fin 16}

theorem byteTaken_fits (hesc : s.esc = false) (hfit : s.rpos.toNat + 1 < 2 ^ 64) :
    byteTaken s = { s with rpos := s.rpos + 1 } := by
  rw [byteTaken_eq hesc, State.countRpos, fit64_succ _ _ hfit, fitDraws_of_lt hfit]
  rfl

theorem exec_lit_boundary (he : s.err = 0) (hr : s.rlev = true) (hesc : s.esc = false)
    (hfit : s.rpos.toNat + 2 < 2 ^ 64) (hb : b ≠ 0x07) :
    exec (.lit b) s = .next (deliver (fun _ => 0) [b] { s with rpos := s.rpos + 1 }) := by
  rw [← byteTaken_fits hesc (Nat.lt_of_succ_lt hfit)]
  exact congrArg Host.Outcome.next (rleBeat_literal he hr hesc hb)

theorem byteTaken_escapeOpened (hesc : s.esc = false) (hfit : s.rpos.toNat + 2 < 2 ^ 64) :
    byteTaken (escapeOpened s) =
      { s with rpos := s.rpos + 2, resp := { err := s.err, val := 0, data := [] } } := by
  have hfirst : s.rpos.toNat + 1 < 2 ^ 64 := Nat.lt_of_succ_lt hfit
  have hsecond : (s.rpos + 1).toNat + 1 < 2 ^ 64 := by
    rwa [← fit64_succ 0 0 hfirst, fit64_toNat _ _ hfirst]
  have htwo : s.rpos + 1 + 1 = s.rpos + 2 := BitVec.add_assoc _ _ _
  rw [escapeOpened, byteTaken_fits hesc hfirst, byteTaken, State.countRpos]
  simp only [answered, fit64_succ _ _ hsecond, fitDraws_of_lt hsecond, htwo, hesc, Nat.add_zero]

/-- The two beats of an escape at a token boundary deliver its token's output. -/
theorem rleBeats_boundary (he : s.err = 0) (hr : s.rlev = true) (hesc : s.esc = false)
    (hfit : s.rpos.toNat + 2 < 2 ^ 64) (hentry : EntryReady c s) :
    rleBeats Config.sentinel c s =
      deliver (fun _ => 0) (tokenOutput s.dict c) { s with rpos := s.rpos + 2 } := by
  rw [rleBeats_sentinel, rleBeat_opens he hr hesc,
    rleBeat_escaped (s := escapeOpened s) he hr rfl hentry, byteTaken_escapeOpened hesc hfit]
  exact deliver_resp (u := { s with rpos := s.rpos + 2 }) _

theorem exec_escLit_boundary (he : s.err = 0) (hr : s.rlev = true) (hesc : s.esc = false)
    (hfit : s.rpos.toNat + 2 < 2 ^ 64) :
    exec .escLit s = .next (deliver (fun _ => 0) [0x07] { s with rpos := s.rpos + 2 }) :=
  congrArg Host.Outcome.next (rleBeats_boundary he hr hesc hfit (.inl rfl))

theorem exec_escRun_boundary (he : s.err = 0) (hr : s.rlev = true) (hesc : s.esc = false)
    (hfit : s.rpos.toNat + 2 < 2 ^ 64) (hj : j.val = index.toNat) (hrun : count ≠ 0 ∨ index ≠ 0)
    (hentry : count = 0 ∨ s.dv.getLsbD j = true) :
    exec (.escRun count index) s = .next (deliver (fun _ => 0)
      (List.replicate count.toNat s.dict[j]) { s with rpos := s.rpos + 2 }) := by
  obtain ⟨hcount, hindex⟩ := Machine.runByte_nibbles count index
  have hzero : runByte count index ≠ 0x00 := by
    rwa [ne_eq, runByte_eq_zero_iff, not_and_or]
  have hready : EntryReady (runByte count index) s := by
    rw [EntryReady, hcount, hindex, ← hj]
    obtain rfl | hdv := hentry
    · exact .inr (.inl rfl)
    · exact .inr (.inr hdv)
  have hout : tokenOutput s.dict (runByte count index) = List.replicate count.toNat s.dict[j] := by
    have hj' : j.val = (runByte count index).toNat % 16 := by rw [← runIndex_toNat, hindex, hj]
    rw [tokenOutput_run hzero hj', ← runCount_eq, hcount]
  rw [← hout]
  exact congrArg Host.Outcome.next (rleBeats_boundary he hr hesc hfit hready)

end Token

/-- Settles O35: a token is its beats by definition; at a token boundary it delivers its output. -/
theorem tokenMeanings : Obligations.TokenMeanings := by
  refine ⟨fun _ _ => rfl, ?_, ?_⟩
  · rintro s s₁ s₂ hfirst joined
    cases hfirst
    refine ⟨fun hsecond => ?_, fun count index hsecond => ?_⟩
    · cases hsecond
      rfl
    · rw [← runByte_eq_ofNat] at hsecond
      cases hsecond
      rfl
  · intro s he hr hesc hfit room
    refine ⟨fun b hb hroom => ?_, fun hroom => ?_, fun count index j hj hrun hroom hentry => ?_⟩
    · exact (exec_lit_boundary he hr hesc hfit hb).trans (congrArg _ (deliver_fits hroom))
    · exact (exec_escLit_boundary he hr hesc hfit).trans (congrArg _ (deliver_fits hroom))
    · have hdeliver := exec_of_deliver (exec_escRun_boundary he hr hesc hfit hj hrun hentry) he
      rw [List.length_replicate] at hdeliver
      exact hdeliver.1 hroom

/-- Settles O36: the same deliveries, cut. -/
theorem tokensAtCapacity : Obligations.TokensAtCapacity := by
  intro s he hr hesc hfit _ room full
  have hstopped {i : Instr} {out : List Byte} {n : Word64}
      (hexec : exec i s = .next (deliver (fun _ => 0) out { s with rpos := s.rpos + n }))
      (hcut : room < out.length) : exec i s = .next (stopped (full n) 4 (out.take room)) :=
    (exec_of_deliver hexec he).2 hcut
  refine ⟨fun b hb hroom => ?_, fun hroom => ?_, fun count index j hj hdv hcut => ?_⟩
  · have h := hstopped (exec_lit_boundary he hr hesc hfit hb) (hroom ▸ Nat.one_pos)
    rwa [hroom, List.take_zero] at h
  · have h := hstopped (exec_escLit_boundary he hr hesc hfit) (hroom ▸ Nat.one_pos)
    rwa [hroom, List.take_zero] at h
  · have hrun : count ≠ 0 := by
      rintro rfl
      exact Nat.not_lt_zero _ hcut
    have h := hstopped (exec_escRun_boundary he hr hesc hfit hj (.inl hrun) (.inr hdv))
      (by rwa [List.length_replicate])
    rwa [List.take_replicate, Nat.min_eq_left hcut.le] at h

/-! ### The run of RLE.BUF (R199) -/

/-- A decompression is in progress with every entry of `dict` written, an escape pending or not, and
room for `room` bytes. -/
structure DecompressingAt (dict : Vector Byte 16) (esc : Bool) (room : Nat) (s : State) : Prop where
  err : s.err = 0
  rlev : s.rlev = true
  dv : s.dv = 0xFFFF
  dict : s.dict = dict
  esc : s.esc = esc
  room : s.ocnt.toNat + room = s.cap.toNat

section Run

variable {dict : Vector Byte 16} {esc : Bool} {room : Nat} {s t : State} {out : List Byte}
  {b : Byte}

theorem DecompressingAt.byteTaken (h : DecompressingAt dict esc room s) :
    DecompressingAt dict false room (byteTaken s) :=
  ⟨h.err, h.rlev, h.dv, h.dict, rfl, h.room⟩

theorem DecompressingAt.escapeOpened (h : DecompressingAt dict false room s) :
    DecompressingAt dict true room (escapeOpened s) :=
  ⟨h.err, h.rlev, h.dv, h.dict, rfl, h.room⟩

theorem DecompressingAt.entryReady (h : DecompressingAt dict esc room s) : EntryReady b s := by
  have hall : ∀ i : BitVec 4, (0xFFFF : BitVec 16).getLsbD i.toNat = true := by decide
  rw [EntryReady, h.dv]
  exact .inr (.inr (hall _))

theorem DecompressingAt.room_eq (h : DecompressingAt dict esc room s) :
    s.cap.toNat - s.ocnt.toNat = room := by
  rw [← h.room, Nat.add_sub_cancel_left]

/-- An output that fits leaves the rest of the room. -/
theorem DecompressingAt.deliver (h : DecompressingAt dict esc room s) (hfit : out.length ≤ room) :
    ∃ t, deliver (fun _ => 0) out s = t ∧ t.resp.data = out ∧
      DecompressingAt dict esc (room - out.length) t := by
  refine ⟨_, deliver_eq_answered (h.room_eq.symm ▸ hfit), rfl, h.err, h.rlev, h.dv, h.dict,
    h.esc, ?_⟩
  have hroom := h.room
  have hcap := s.cap.isLt
  change (BitVec.ofNat 64 (s.ocnt.toNat + out.length)).toNat + (room - out.length) = s.cap.toNat
  rw [BitVec.toNat_ofNat, Nat.mod_eq_of_lt (by omega)]
  omega

/-- Once an error is latched the commands of a run do nothing (R281). -/
theorem runAll_refused {is : List Instr} (his : ∀ i ∈ is, ∀ s, refusedIn i s) (he : s.err ≠ 0) :
    ∃ t, runAll is s = some (t, []) ∧ t.err = s.err := by
  induction is generalizing s with
  | nil => exact ⟨s, rfl, rfl⟩
  | cons i is ih =>
    obtain ⟨hi, his⟩ := List.forall_mem_cons.mp his
    rw [runAll_cons_silent (hi s he) rfl]
    exact ih his (s := answered s 0 []) he

/-- The commands `is` answer the data of `r` and latch its status. -/
def RunAnswers (is : List Instr) (s : State) (r : List Byte × Option Error) : Prop :=
  ∃ t, runAll is s = some (t, r.1) ∧ t.err = r.2.elim 0 Error.code

theorem runAnswers_cons {i : Instr} {is : List Instr} {r : List Byte × Option Error}
    (hexec : exec i s = .next t) (h : RunAnswers is t r) :
    RunAnswers (i :: is) s (prepend t.resp.data r) := by
  obtain ⟨u, hrun, herr⟩ := h
  exact ⟨u, by rw [runAll_cons hexec, hrun]; rfl, herr⟩

/-- A command stopped by CapacityError ends a run's data. -/
theorem runAnswers_cons_capacity {i : Instr} {is : List Instr}
    (hexec : exec i s = .next (stopped t 4 out)) (his : ∀ i ∈ is, ∀ s, refusedIn i s) :
    RunAnswers (i :: is) s (out, some .capacity) := by
  have h := runAnswers_cons (r := ([], some .capacity)) hexec
    (runAll_refused his (by decide : (4 : BitVec 3) ≠ 0))
  rwa [prepend, List.append_nil] at h

/-- The commands of RLE.BUF after its start (R103). -/
def rleTail (bytes : List Byte) : List Instr := bytes.map .rleByte ++ [.rleEnd]

theorem refusedIn_rleTail {bytes : List Byte} : ∀ i ∈ rleTail bytes, ∀ s, refusedIn i s := by
  intro i hi s
  obtain hbyte | hend := List.mem_append.mp hi
  · obtain ⟨b, -, rfl⟩ := List.mem_map.mp hbyte
    exact refusedIn_of_whenReady rfl
  · rw [List.mem_singleton.mp hend]
    exact refusedIn_of_whenReady rfl

/-- A byte that delivers, and the rest after it: the scan's bytes, cut where they do not fit. -/
theorem runAnswers_deliver {bytes : List Byte} {r : List Byte × Option Error}
    (hexec : exec (.rleByte b) s = .next (deliver (fun _ => 0) out (byteTaken s)))
    (hs : DecompressingAt dict esc room s)
    (hrest : ∀ {room : Nat} {t : State}, DecompressingAt dict false room t →
      RunAnswers (rleTail bytes) t (limit room r)) :
    RunAnswers (rleTail (b :: bytes)) s (limit room (prepend out r)) := by
  have hu := hs.byteTaken
  obtain hfit | hcut := le_or_gt out.length room
  · obtain ⟨t, hdeliver, hdata, ht⟩ := hu.deliver hfit
    rw [limit_prepend_fits hfit, ← hdata]
    rw [← hdata] at ht
    exact runAnswers_cons (hexec.trans (congrArg _ hdeliver)) (hrest ht)
  · have hstop := deliver_eq_stopped (v := fun _ => 0) hu.err (hu.room_eq.symm ▸ hcut)
    rw [hu.room_eq] at hstop
    rw [limit_prepend_full hcut]
    exact runAnswers_cons_capacity (hexec.trans (congrArg _ hstop)) refusedIn_rleTail

/-- RLE.END ends a run as the scan ends (R198). -/
theorem rleFinish_answers (te : TrailingEscape) (hs : DecompressingAt dict esc room s) :
    (rleFinish te s).resp.data = (limit room (scan te dict esc [])).1 ∧
      (rleFinish te s).err = (limit room (scan te dict esc [])).2.elim 0 Error.code := by
  cases esc with
  | false =>
    rw [rleFinish_boundary hs.err hs.rlev hs.esc, limit_of_le (Nat.zero_le _)]
    exact ⟨rfl, hs.err⟩
  | true =>
    cases te with
    | error =>
      rw [rleFinish_error hs.err hs.rlev hs.esc, limit_of_le (Nat.zero_le _)]
      exact ⟨rfl, rfl⟩
    | literal =>
      have hroom := hs.room
      obtain hfull | hpos := room.eq_zero_or_pos
      · subst hfull
        rw [rleFinish_literal_full hs.err hs.rlev hs.esc (BitVec.eq_of_toNat_eq hroom),
          limit_of_lt Nat.one_pos]
        exact ⟨rfl, rfl⟩
      · rw [rleFinish_literal_fits hs.err hs.rlev hs.esc (by omega), limit_of_le hpos]
        exact ⟨rfl, hs.err⟩

/-- From a state in the middle of a decompression the commands left answer the scan of the bytes
left, cut at the room left. -/
theorem runAnswers_rleTail (bytes : List Byte) (hs : DecompressingAt dict esc room s) :
    RunAnswers (rleTail bytes) s (limit room (scan Config.trailingEscape dict esc bytes)) := by
  induction bytes generalizing esc room s with
  | nil =>
    obtain ⟨hdata, herr⟩ := rleFinish_answers Config.trailingEscape hs
    have h := runAnswers_cons (i := .rleEnd) (is := []) (r := ([], _)) rfl ⟨_, rfl, herr⟩
    rwa [prepend, List.append_nil, hdata] at h
  | cons b rest ih =>
    cases esc with
    | true =>
      have hbeat := rleBeat_escaped hs.err hs.rlev hs.esc (hs.entryReady (b := b))
      rw [hs.dict] at hbeat
      exact runAnswers_deliver (congrArg _ hbeat) hs ih
    | false =>
      by_cases hb : b = Config.sentinel
      · have hbeat := rleBeat_opens hs.err hs.rlev hs.esc
        rw [hb, scan_sentinel]
        exact runAnswers_cons (congrArg _ hbeat) (ih hs.escapeOpened)
      · have hbeat := rleBeat_literal hs.err hs.rlev hs.esc hb
        rw [scan_literal hb]
        exact runAnswers_deliver (congrArg _ hbeat) hs ih

end Run

/-- Settles O39: RLE.START begins the run of `runAnswers_rleTail` with nothing emitted. -/
theorem rleBufRefinesDecompress : Obligations.RleBufRefinesDecompress := by
  intro s cap input he hdv result
  have hstart : DecompressingAt s.dict false cap.toNat (answered
      { s with cap := cap, rpos := 0, ocnt := 0, esc := false, rlev := true } 0 []) :=
    ⟨he, rfl, hdv, rfl, rfl, Nat.zero_add _⟩
  have h : RunAnswers (rleBuf cap input) s result := by
    have hresult : result = _ := decompress_eq_limit ..
    rw [hresult]
    exact runAnswers_cons (exec_rleStart_ready he) (runAnswers_rleTail input hstart)
  obtain ⟨t, hrun, herr⟩ := h
  refine ⟨t, hrun, ?_⟩
  rw [herr]
  cases result.2 <;> rfl

end Sys2Proof.Proofs

/-! PROOFS. The chains that are accepted, and the command CHAIN.SCAN (45_chain_analyzer.md R210 to R222). -/

namespace Sys2Proof.Proofs

open Sys2Proof Sys2Proof.Machine Sys2Proof.Certificates

/-! ### A frame by its record

The walk speaks of the offset it stands at; a record says the same of its own OFF and DOFF. -/

theorem fit64_self (x : Word64) (draw slot : Nat) : fit64 x.toNat draw slot = x := by
  rw [fit64_of_lt _ _ x.isLt, BitVec.ofNat_toNat, BitVec.setWidth_eq]

/-- Record `f` is the valid header of IN at its own OFF, its data region inside IN (R212, R215, R216). -/
structure RecordLegal (magic : Magic) (draw : Nat) (inp : Memory) (blen f : Nat) (c : StreamCfg) :
    Prop where
  header : c = { parseHeader magic draw f (inp.readRange c.off.toNat (min (blen - c.off.toNat) 38))
    (blen - c.off.toNat) with off := c.off, doff := c.doff }
  valid : c.valid = true
  doff : c.doff.toNat = dataOffset c.off.toNat c
  extent : c.doff.toNat + c.stored.toNat ≤ blen

/-- Where the next header stands (R213). -/
def nextOffset (c : StreamCfg) : Nat := alignUp (c.doff.toNat + c.stored.toNat)

section Record

variable {magic : Magic} {draw f off blen : Nat} {inp : Memory} {c : StreamCfg}

theorem recordLegal_of_headerAt (hb : blen < 2 ^ 64)
    (h : headerAt magic draw f inp blen off = .ok c) (hv : c.valid = true)
    (hend : dataOffset off c + c.stored.toNat ≤ blen) :
    RecordLegal magic draw inp blen f c ∧ c.off.toNat = off := by
  have hoff := headerAt_off hb h hend
  have hdoff := headerAt_doff h (by omega)
  refine ⟨⟨?_, hv, by rw [hdoff, hoff], by rwa [hdoff]⟩, hoff⟩
  rw [hoff]
  obtain rfl := Except.ok.inj ((headerAt_eq magic draw f inp blen off).symm.trans h)
  rfl

theorem RecordLegal.headerAt (h : RecordLegal magic draw inp blen f c) :
    headerAt magic draw f inp blen c.off.toNat = .ok c := by
  have hheader := h.header
  rw [headerAt_eq]
  generalize parseHeader magic draw f _ _ = p at hheader ⊢
  have hp : dataOffset c.off.toNat p = c.doff.toNat := by
    rw [h.doff, dataOffset, dataOffset, congrArg StreamCfg.hlen hheader]
  rw [hp, fit64_self, BitVec.ofNat_toNat, BitVec.setWidth_eq, ← hheader]

theorem RecordLegal.dataEnd_le (h : RecordLegal magic draw inp blen f c) :
    dataOffset c.off.toNat c + c.stored.toNat ≤ blen :=
  h.doff ▸ h.extent

/-- A legal header lies inside IN: the check NEXT < BLEN changes no result (R216). -/
theorem RecordLegal.off_lt (hb : blen < 2 ^ 64) (ha : c.off.toNat % 4096 = 0)
    (h : RecordLegal magic draw inp blen f c) : c.off.toNat < blen := by
  have hframe := headerAt_frameOk hb ha h.headerAt h.valid h.dataEnd_le
  have hdoff := hframe.doff
  have hextent := hframe.extent
  omega

end Record

/-! ### The walk -/

/-- Records of frame `f` and on, the first at `off`, each next where the one before it leads, with CONT on
all but the last (R211 to R213, R218). -/
def LegalWalk (magic : Magic) (draw : Nat) (inp : Memory) (blen f off : Nat)
    (frames : List StreamCfg) : Prop :=
  ∀ j c, frames[j]? = some c →
    RecordLegal magic draw inp blen (f + j) c ∧ (j = 0 → c.off.toNat = off) ∧
    (∀ d, frames[j + 1]? = some d → d.off.toNat = nextOffset c) ∧
    (c.cont = true ↔ j + 1 < frames.length)

section Walk

variable {magic : Magic} {draw f off room max blen : Nat} {inp : Memory} {c : StreamCfg}
  {cs frames : List StreamCfg}

/-- A walk is its first frame and the walk from where that frame leads. -/
theorem legalWalk_cons :
    LegalWalk magic draw inp blen f off (c :: cs) ↔
      RecordLegal magic draw inp blen f c ∧ c.off.toNat = off ∧ (c.cont = true ↔ cs ≠ []) ∧
        LegalWalk magic draw inp blen (f + 1) (nextOffset c) cs := by
  constructor
  · intro h
    obtain ⟨hrec, hoff, hnext, hcont⟩ := h 0 c rfl
    refine ⟨hrec, hoff rfl, by simpa [List.length_pos_iff] using hcont, fun j d hd => ?_⟩
    obtain ⟨hrec', -, hnext', hcont'⟩ := h (j + 1) d hd
    refine ⟨by rwa [Nat.add_right_comm], ?_, hnext', by simpa using hcont'⟩
    rintro rfl
    exact hnext d hd
  · rintro ⟨hrec, hoff, hcont, hwalk⟩ (_ | j) d hd
    · obtain rfl : c = d := Option.some.inj hd
      exact ⟨hrec, fun _ => hoff, fun d hd => (hwalk 0 d hd).2.1 rfl,
        by simpa [List.length_pos_iff] using hcont⟩
    · obtain ⟨hrec', -, hnext', hcont'⟩ := hwalk j d hd
      exact ⟨by rwa [Nat.add_right_comm] at hrec', nofun, hnext', by simpa using hcont'⟩

/-- A walk that succeeds has gone through at least one frame. -/
theorem chainFrom_ne_nil (h : chainFrom magic draw inp blen room f off = .ok frames) :
    frames ≠ [] := by
  obtain ⟨_, _, -, -, -, -, ⟨-, rfl⟩ | ⟨-, -, -, -, _, -, rfl⟩⟩ := chainFrom_ok h
  · exact List.cons_ne_nil _ _
  · exact List.cons_ne_nil _ _

/-- The frames the walk accepts are a legal walk, one for each place in `room` at most. -/
theorem legalWalk_of_chainFrom (hb : blen < 2 ^ 64)
    (h : chainFrom magic draw inp blen room f off = .ok frames) :
    frames.length ≤ room ∧ LegalWalk magic draw inp blen f off frames := by
  induction room generalizing f off frames with
  | zero => simp [chainFrom] at h
  | succ room ih =>
    obtain ⟨room', c, hroom, hc, hv, hend, hrest⟩ := chainFrom_ok h
    obtain rfl := Nat.succ.inj hroom
    obtain ⟨hrec, hoff⟩ := recordLegal_of_headerAt hb hc hv hend
    obtain ⟨hcont, rfl⟩ | ⟨hcont, -, hroom, -, cs, hcs, rfl⟩ := hrest
    · exact ⟨by simp, legalWalk_cons.mpr ⟨hrec, hoff, by simp [hcont], nofun⟩⟩
    · obtain ⟨hlen, hwalk⟩ := ih hcs
      have hnext : dataOffset off c + c.stored.toNat = c.doff.toNat + c.stored.toNat := by
        rw [hrec.doff, hoff]
      rw [hnext] at hwalk
      exact ⟨Nat.succ_le_succ hlen,
        legalWalk_cons.mpr ⟨hrec, hoff, iff_of_true hcont (chainFrom_ne_nil hcs), hwalk⟩⟩

/-- The walk accepts a legal walk in which every frame that another follows has FLT (R217). -/
theorem chainFrom_of_legalWalk (hb : blen < 2 ^ 64) (hne : frames ≠ []) (hlen : frames.length ≤ room)
    (hflt : ∀ c ∈ frames, c.cont = true → c.flt = true)
    (h : LegalWalk magic draw inp blen f off frames) :
    chainFrom magic draw inp blen room f off = .ok frames := by
  induction frames generalizing room f off with
  | nil => exact absurd rfl hne
  | cons c cs ih =>
    obtain ⟨room, rfl⟩ := Nat.exists_eq_add_one.mpr (Nat.lt_of_lt_of_le (Nat.succ_pos _) hlen)
    obtain ⟨hrec, rfl, hcont, hwalk⟩ := legalWalk_cons.mp h
    obtain ⟨hfc, hfcs⟩ := List.forall_mem_cons.mp hflt
    cases cs with
    | nil =>
      exact chainFrom_last hrec.headerAt hrec.valid hrec.dataEnd_le (by simpa using hcont)
    | cons d ds =>
      have hc : c.cont = true := hcont.mpr (List.cons_ne_nil _ _)
      have hroom : (d :: ds).length ≤ room := Nat.le_of_succ_le_succ hlen
      have hrest := ih (List.cons_ne_nil _ _) hroom hfcs hwalk
      obtain ⟨hd, hoff, -, -⟩ := legalWalk_cons.mp hwalk
      have hinside : nextOffset c < blen :=
        hoff ▸ hd.off_lt hb (hoff ▸ alignUp_mod _)
      rw [nextOffset, hrec.doff] at hinside hrest
      exact chainFrom_next hrec.headerAt hrec.valid hrec.dataEnd_le hc (hfc hc)
        (Nat.ne_of_gt (Nat.lt_of_lt_of_le (Nat.succ_pos _) hroom)) hinside hrest

/-- R219, read of each frame. -/
theorem flagsConsistent_iff (frames : List StreamCfg) :
    flagsConsistent frames = true ↔ 1 ≤ frames.length ∧ frames.length ≤ 3 ∧ ∀ c ∈ frames,
      (frames.length = 2 → c.flt = true ∧ c.flt3 = false) ∧
      (frames.length = 3 → c.flt = true ∧ c.flt3 = true) := by
  unfold flagsConsistent
  split
  · next h => simp [h]
  · next h => simp [h]
  · next h => simp [h]
  · next h1 h2 h3 =>
    refine iff_of_false Bool.false_ne_true fun ⟨hpos, hle, _⟩ => ?_
    obtain h | h | h : frames.length = 1 ∨ frames.length = 2 ∨ frames.length = 3 := by omega
    · exact h1 h
    · exact h2 h
    · exact h3 h

/-- A chain is accepted exactly when it is a legal walk from offset 0 with consistent float flags: the
FLT that R217 asks for is among these, since a frame with CONT is one of two or three. -/
theorem analyzeChain_iff (hb : blen < 2 ^ 64) :
    analyzeChain magic draw inp blen max = .ok frames ↔
      frames.length ≤ max ∧ LegalWalk magic draw inp blen 0 0 frames ∧
        flagsConsistent frames = true := by
  constructor
  · intro h
    obtain ⟨hchain, hflags⟩ := analyzeChain_ok h
    obtain ⟨hlen, hwalk⟩ := legalWalk_of_chainFrom hb hchain
    exact ⟨hlen, hwalk, hflags⟩
  · rintro ⟨hlen, hwalk, hflags⟩
    obtain ⟨hpos, hle, hfloat⟩ := (flagsConsistent_iff frames).mp hflags
    refine analyzeChain_accepts (chainFrom_of_legalWalk hb (List.length_pos_iff.mp hpos) hlen
      (fun c hc hcont => ?_) hwalk) hflags
    obtain ⟨j, hj⟩ := List.mem_iff_getElem?.mp hc
    obtain ⟨-, -, -, hmore⟩ := hwalk j c hj
    have hmany := hmore.mp hcont
    obtain ⟨htwo, hthree⟩ := hfloat c hc
    obtain h2 | h3 : frames.length = 2 ∨ frames.length = 3 := by omega
    · exact (htwo h2).1
    · exact (hthree h3).1

end Walk

/-- Settles O49: `analyzeChain_iff`, its conditions read frame by frame. -/
theorem chainFramesLegal : Obligations.ChainFramesLegal := by
  intro magic draw blen max inp frames hb hmax
  refine ⟨(analyzeChain_iff hb).trans ⟨?_, ?_⟩, fun h c hc => (analyzeChain_records hb h c hc).1⟩
  · rintro ⟨hlen, hwalk, hflags⟩
    obtain ⟨hpos, -, hfloat⟩ := (flagsConsistent_iff frames).mp hflags
    refine ⟨hpos, hlen, fun j c hj => ?_⟩
    obtain ⟨hrec, hfirst, hnext, hcont⟩ := hwalk j c hj
    rw [Nat.zero_add] at hrec
    exact ⟨hrec.header, hrec.valid, hrec.doff, hrec.extent, hfirst, hnext, hcont,
      hfloat c (List.mem_of_getElem? hj)⟩
  · rintro ⟨hpos, hlen, hframes⟩
    refine ⟨hlen, fun j c hj => ?_,
      (flagsConsistent_iff frames).mpr ⟨hpos, hlen.trans hmax, fun c hc => ?_⟩⟩
    · obtain ⟨hheader, hvalid, hdoff, hextent, hfirst, hnext, hcont, -⟩ := hframes j c hj
      rw [Nat.zero_add]
      exact ⟨⟨hheader, hvalid, hdoff, hextent⟩, hfirst, hnext, hcont⟩
    · obtain ⟨j, hj⟩ := List.mem_iff_getElem?.mp hc
      obtain ⟨-, -, -, -, -, -, -, hfloat⟩ := hframes j c hj
      exact hfloat

/-! ### The command -/

section Command

variable {s : State} {m : Byte} {frames : List StreamCfg}

/-- R222: the records of the chain, frame by frame, and the rest invalid. -/
theorem scannedCfg_records (frames : List StreamCfg) (old : Vector StreamCfg 3) (f : Fin 3) :
    (∀ c, frames[f.val]? = some c → (scannedCfg frames old)[f] = c) ∧
    (frames.length ≤ f.val →
      (scannedCfg frames old)[f].valid = false ∧ (scannedCfg frames old)[f].shortSum = false) := by
  rw [scannedCfg_getElem]
  refine ⟨fun c hc => ?_, fun hf => ?_⟩
  · rw [List.getD_eq_getElem?_getD, hc, Option.getD_some]
  · rw [List.getD_eq_default _ _ hf]
    exact ⟨rfl, rfl⟩

theorem recordNoScan_shortSum (s : State) (f : Fin 3) : (recordNoScan s).cfg[f].shortSum = false := by
  simp [freeCfg]

theorem execChainScan_badBound (he : s.err = 0) (hm : m.toNat < 1 ∨ 3 < m.toNat) :
    execChainScan m s = .next (stopped s 7 []) := by
  rw [execChainScan, if_pos he, if_pos hm, takeError_eq_stopped .protocol [] he]
  rfl

theorem execChainScan_accepted (he : s.err = 0) (h1 : 1 ≤ m.toNat) (h3 : m.toNat ≤ 3)
    (hc : analyzeChain Config.magic s.free s.inp s.blen.toNat m.toNat = .ok frames) :
    execChainScan m s = .next (answered { s with
      cfg := scannedCfg frames s.cfg, nfr := BitVec.ofNat 2 frames.length, scanv := true, outv := false,
      free := s.free + 1 } (BitVec.ofNat 64 frames.length) []) := by
  rw [execChainScan, if_pos he, if_neg (by omega), hc]
  rfl

theorem execChainScan_badChain {stop : Stop} (he : s.err = 0) (h1 : 1 ≤ m.toNat) (h3 : m.toNat ≤ 3)
    (hc : analyzeChain Config.magic s.free s.inp s.blen.toNat m.toNat = .error stop) :
    execChainScan m s = .next (stopped { s with
      cfg := (recordNoScan s).cfg, nfr := 0, scanv := false, outv := false, free := s.free + 1 } 1 []) := by
  obtain rfl := analyzeChain_error hc
  rw [execChainScan, if_pos he, if_neg (by omega), hc]
  exact congrArg _ (takeError_eq_stopped (s := (recordNoScan (beginScan s)).drawn) .format [] he)

theorem execChainScan_refused (he : s.err ≠ 0) : execChainScan m s = .next (answered s 0 []) :=
  if_neg he

end Command

/-- Settles O48: CHAIN.SCAN by its bound and by what the walk answers. -/
theorem chainScanMeaning : Obligations.ChainScanMeaning := by
  intro s m
  refine ⟨execChainScan_badBound, fun he h1 h3 => ⟨fun frames hc => ?_, fun stop hc => ?_⟩,
    execChainScan_refused, decodeRequest_field (mk := .chainScan) (by decide) (fun _ => rfl) m⟩
  · exact ⟨_, execChainScan_accepted he h1 h3 hc, scannedCfg_records frames s.cfg⟩
  · exact ⟨_, execChainScan_badChain he h1 h3 hc, recordNoScan_shortSum s⟩

end Sys2Proof.Proofs

/-! PROOFS. The float rejoiner: the two assemblies as bit fields side by side, the commands
FJ2.BEAT and FJ3.BEAT, and the two stream functions (46_float_rejoiner.md R230 to R241). -/

namespace Sys2Proof.Proofs

open Sys2Proof Sys2Proof.Machine Sys2Proof.Certificates

/-! ### Masks and shifts as fields -/

section Masks

variable {w : Nat}

/-- A mask of the `n` low bits keeps the low field. -/
theorem and_lowMask (x : BitVec w) (n : Nat) :
    x &&& BitVec.ofNat w (2 ^ n - 1) = (x.extractLsb' 0 n).setWidth w := by
  refine BitVec.eq_of_getLsbD_eq fun i hi => ?_
  rw [BitVec.getLsbD_and, BitVec.getLsbD_ofNat, Nat.testBit_two_pow_sub_one, BitVec.getLsbD_setWidth,
    BitVec.getLsbD_extractLsb', Nat.zero_add, decide_eq_true hi, Bool.true_and, Bool.true_and,
    Bool.and_comm]

/-- A shift to the right keeps the high field. -/
theorem ushiftRight_eq_highField {k n : Nat} (x : BitVec w) (h : k + n = w) :
    x >>> k = (x.extractLsb' k n).setWidth w := by
  refine BitVec.eq_of_getLsbD_eq fun i hi => ?_
  rw [BitVec.getLsbD_ushiftRight, BitVec.getLsbD_setWidth, BitVec.getLsbD_extractLsb',
    decide_eq_true hi, Bool.true_and]
  by_cases hin : i < n
  · rw [decide_eq_true hin, Bool.true_and]
  · rw [decide_eq_false hin, Bool.false_and, BitVec.getLsbD_of_ge x _ (by omega)]

/-- The top bit, kept in its place, above seven bits. -/
theorem topBit_or_low (s : Byte) (y : BitVec 7) :
    (s &&& 0x80#8) ||| y.setWidth 8 = (s.extractLsb' 7 1 ++ y : Byte) := by
  have htop : s &&& 0x80#8 = s >>> 7 <<< 7 :=
    (BitVec.shiftLeft_ushiftRight (x := s) (n := 7)).symm
  rw [htop, ushiftRight_eq_highField (n := 1) s rfl,
    ← BitVec.setWidth_append_eq_shiftLeft_setWidth_or, BitVec.setWidth_eq]

end Masks

/-! ### The assembly (R232, R235, R237) -/

section Assembly

variable (b0 b1 b2 f0 f1 f2 e sgn o2 o3 : Byte)

/-- Byte 2 of a float: the exponent's last bit above seven bits of the fraction. -/
theorem lowExponent_or_fraction : ((e &&& 0x01#8) <<< 7) ||| (f2 &&& 0x7F#8) =
    (e.extractLsb' 0 1 ++ f2.extractLsb' 0 7 : Byte) := by
  have hlow : e &&& 0x01#8 = (e.extractLsb' 0 1).setWidth 8 := and_lowMask e 1
  have hfraction : f2 &&& 0x7F#8 = (f2.extractLsb' 0 7).setWidth 8 := and_lowMask f2 7
  rw [hlow, hfraction, ← BitVec.setWidth_append_eq_shiftLeft_setWidth_or, BitVec.setWidth_eq]

/-- Byte 3 of a float: the sign above the exponent's other bits. -/
theorem sign_or_highExponent :
    (sgn &&& 0x80#8) ||| (e >>> 1) = (sgn.extractLsb' 7 1 ++ e.extractLsb' 1 7 : Byte) := by
  rw [ushiftRight_eq_highField (n := 7) e rfl, topBit_or_low]

/-- The bytes of a float of three streams, the two mixed ones field by field. -/
theorem join3_eq_fields : join3 f0 f1 f2 e sgn =
    [f0, f1, e.extractLsb' 0 1 ++ f2.extractLsb' 0 7, sgn.extractLsb' 7 1 ++ e.extractLsb' 1 7] :=
  congrArg₂ (fun x y => [f0, f1, x, y]) (lowExponent_or_fraction f2 e) (sign_or_highExponent e sgn)

/-- Two streams are three whose sign byte is the top fraction byte. -/
theorem join2_eq_join3 : join2 b0 b1 b2 e = join3 b0 b1 b2 e b2 := rfl

theorem join2_eq_fields : join2 b0 b1 b2 e =
    [b0, b1, e.extractLsb' 0 1 ++ b2.extractLsb' 0 7, b2.extractLsb' 7 1 ++ e.extractLsb' 1 7] :=
  (join2_eq_join3 b0 b1 b2 e).trans (join3_eq_fields b0 b1 b2 e b2)

/-- R235's inverse for b2: the top bit of byte 3 above seven bits of byte 2. -/
theorem inverse_b2 :
    (o3 &&& 0x80) ||| (o2 &&& 0x7F) = (o3.extractLsb' 7 1 ++ o2.extractLsb' 0 7 : Byte) :=
  (congrArg _ (and_lowMask o2 7)).trans (topBit_or_low o3 _)

/-- R235's inverse for e: seven bits of byte 3 above the top bit of byte 2. -/
theorem inverse_exponent : ((o3 &&& 0x7F) <<< 1) ||| (o2 >>> 7) =
    (o3.extractLsb' 0 7 ++ o2.extractLsb' 7 1 : Byte) := by
  have hlow : o3 &&& 0x7F = (o3.extractLsb' 0 7).setWidth 8 := and_lowMask o3 7
  rw [hlow, ushiftRight_eq_highField (n := 1) o2 rfl,
    ← BitVec.setWidth_append_eq_shiftLeft_setWidth_or, BitVec.setWidth_eq]

theorem top_append_low (b : Byte) : (b.extractLsb' 7 1 ++ b.extractLsb' 0 7 : Byte) = b :=
  BitVec.extractLsb'_append_extractLsb' (w := 1) (len := 7)

theorem high_append_lowest (b : Byte) : (b.extractLsb' 1 7 ++ b.extractLsb' 0 1 : Byte) = b :=
  BitVec.extractLsb'_append_extractLsb' (w := 7) (len := 1)

end Assembly

/-- Settles O43: the four output fields are the four input fields, in other places. -/
theorem join2Bijection : Obligations.Join2Bijection := by
  refine ⟨fun b0 b1 b2 e => ⟨_, _, join2_eq_fields b0 b1 b2 e, ?_, ?_⟩, fun o0 o1 o2 o3 => ?_⟩
  · rw [inverse_b2, BitVec.extractLsb'_append_eq_left, BitVec.extractLsb'_append_eq_right,
      top_append_low]
  · rw [inverse_exponent, BitVec.extractLsb'_append_eq_left, BitVec.extractLsb'_append_eq_right,
      high_append_lowest]
  · rw [inverse_b2, inverse_exponent, join2_eq_fields]
    simp only [BitVec.extractLsb'_append_eq_left, BitVec.extractLsb'_append_eq_right, top_append_low]

/-! ### The word (R230) -/

section Word

variable (x0 x1 x2 x3 b0 b1 b2 f0 f1 f2 e sgn : Byte)

/-- The bytes of a word, least significant first. -/
def wordBytes (w : BitVec 32) : List Byte :=
  [w.extractLsb' 0 8, w.extractLsb' 8 8, w.extractLsb' 16 8, w.extractLsb' 24 8]

/-- A byte's bits lie below those of all that is put above it. -/
theorem extract_above {v : Nat} (hi : BitVec v) (lo : Byte) (a : Nat) :
    (hi ++ lo).extractLsb' (a + 8) 8 = hi.extractLsb' a 8 :=
  BitVec.extractLsb'_append_eq_of_le (Nat.le_add_left 8 a)

theorem wordBytes_append : wordBytes (x3 ++ x2 ++ x1 ++ x0) = [x0, x1, x2, x3] := by
  have h0 : (x3 ++ x2 ++ x1 ++ x0).extractLsb' 0 8 = x0 := BitVec.extractLsb'_append_eq_right
  have h1 : (x3 ++ x2 ++ x1 ++ x0).extractLsb' 8 8 = x1 := by
    rw [extract_above _ _ 0, BitVec.extractLsb'_append_eq_right]
  have h2 : (x3 ++ x2 ++ x1 ++ x0).extractLsb' 16 8 = x2 := by
    rw [extract_above _ _ 8, extract_above _ _ 0, BitVec.extractLsb'_append_eq_right]
  have h3 : (x3 ++ x2 ++ x1 ++ x0).extractLsb' 24 8 = x3 := by
    rw [extract_above _ _ 16, extract_above _ _ 8, BitVec.extractLsb'_append_eq_left]
  rw [wordBytes, h0, h1, h2, h3]

theorem append_eq_shifts : x3 ++ x2 ++ x1 ++ x0 =
    x3.setWidth 32 <<< 24 ||| x2.setWidth 32 <<< 16 ||| x1.setWidth 32 <<< 8 ||| x0.setWidth 32 :=
  (BitVec.setWidth_eq _).symm.trans BitVec.setWidth_append_append_append_eq_shiftLeft_setWidth_or

/-- The binary32 word of a float: sign, exponent and fraction in their places. -/
def floatWord : BitVec 32 :=
  ((sgn.setWidth 32 >>> 7) <<< 31) ||| (e.setWidth 32 <<< 23) |||
    ((f2.setWidth 32 &&& 0x7F) <<< 16) ||| (f1.setWidth 32 <<< 8) ||| f0.setWidth 32

/-- The exponent's field crosses the boundary of bytes 2 and 3. -/
theorem floatWord_eq_append : floatWord f0 f1 f2 e sgn =
    (sgn.extractLsb' 7 1 ++ e.extractLsb' 1 7 : Byte) ++
      (e.extractLsb' 0 1 ++ f2.extractLsb' 0 7 : Byte) ++ f1 ++ f0 := by
  have hsign : sgn.setWidth 32 >>> 7 = (sgn.extractLsb' 7 1).setWidth 32 := by
    rw [← BitVec.setWidth_ushiftRight (by decide), ushiftRight_eq_highField (n := 1) sgn rfl,
      BitVec.setWidth_setWidth (by decide)]
  have hexponent : e.setWidth 32 =
      (e.extractLsb' 1 7).setWidth 32 <<< 1 ||| (e.extractLsb' 0 1).setWidth 32 := by
    rw [← BitVec.setWidth_append_eq_shiftLeft_setWidth_or, high_append_lowest]
  have hfraction : f2.setWidth 32 &&& 0x7F = (f2.extractLsb' 0 7).setWidth 32 := by
    rw [← BitVec.extractLsb'_setWidth_of_le (w' := 32) (by decide)]
    exact and_lowMask _ 7
  rw [floatWord, append_eq_shifts, hsign, hexponent, hfraction,
    BitVec.setWidth_append_eq_shiftLeft_setWidth_or, BitVec.setWidth_append_eq_shiftLeft_setWidth_or]
  simp only [BitVec.shiftLeft_or_distrib, ← BitVec.shiftLeft_add, Nat.reduceAdd, BitVec.or_assoc]

/-- R232 and R237 are R230's layout. -/
theorem join3_eq_wordBytes : join3 f0 f1 f2 e sgn = wordBytes (floatWord f0 f1 f2 e sgn) := by
  rw [floatWord_eq_append, wordBytes_append, join3_eq_fields]

theorem join2_eq_wordBytes : join2 b0 b1 b2 e = wordBytes (floatWord b0 b1 b2 e b2) :=
  (join2_eq_join3 b0 b1 b2 e).trans (join3_eq_wordBytes b0 b1 b2 e b2)

end Word

/-! ### The commands FJ2.BEAT and FJ3.BEAT (R240, R241) -/

section Command

variable {s : State} (b0 b1 b2 f0 f1 f2 e sgn : Byte)

theorem exec_fj3Beat_ready (he : s.err = 0) : exec (.fj3Beat f0 f1 f2 e sgn) s =
    .next (answered s 0 (wordBytes (floatWord f0 f1 f2 e sgn))) :=
  join3_eq_wordBytes f0 f1 f2 e sgn ▸
    exec_of_whenReady (f := fun s => answered s 0 (join3 f0 f1 f2 e sgn)) rfl he

theorem exec_fj2Beat_ready (he : s.err = 0) : exec (.fj2Beat b0 b1 b2 e) s =
    .next (answered s 0 (wordBytes (floatWord b0 b1 b2 e b2))) :=
  join2_eq_wordBytes b0 b1 b2 e ▸
    exec_of_whenReady (f := fun s => answered s 0 (join2 b0 b1 b2 e)) rfl he

theorem placeByte_zero (b : Byte) : placeByte b 0 = b.setWidth 64 := BitVec.shiftLeft_zero _

end Command

/-- Settles O41: the word's bytes, and the operands put in format F3. -/
theorem fj3BeatMeaning : Obligations.Fj3BeatMeaning := fun _ f0 f1 f2 e sgn =>
  ⟨exec_fj3Beat_ready f0 f1 f2 e sgn, refusedIn_of_whenReady rfl,
    placeByte_zero f0 ▸ decodeRequest_encode_fj3Beat f0 f1 f2 e sgn⟩

/-- Settles O40: as O41, with format F2. -/
theorem fj2BeatMeaning : Obligations.Fj2BeatMeaning := fun _ b0 b1 b2 e =>
  ⟨exec_fj2Beat_ready b0 b1 b2 e, refusedIn_of_whenReady rfl,
    placeByte_zero b0 ▸ decodeRequest_encode_fj2Beat b0 b1 b2 e⟩

/-! ### The stream functions (R231, R233, R237) -/

/-- `out` holds the four bytes of each of `n` floats, in order. -/
def HoldsFloats (n : Nat) (float : Nat → List Byte) (out : List Byte) : Prop :=
  out.length = 4 * n ∧ ∀ i, i < n → (out.drop (4 * i)).take 4 = float i

section Streams

variable {n : Nat} {float : Nat → List Byte} {a e g out : List Byte}

theorem holdsFloats_nil : HoldsFloats 0 float [] := ⟨rfl, nofun⟩

theorem HoldsFloats.cons (hfirst : (float 0).length = 4)
    (h : HoldsFloats n (fun i => float (i + 1)) out) :
    HoldsFloats (n + 1) float (float 0 ++ out) := by
  obtain ⟨hlen, hfloat⟩ := h
  refine ⟨by rw [List.length_append, hfirst, hlen, Nat.mul_succ, Nat.add_comm], fun i hi => ?_⟩
  cases i with
  | zero => exact List.take_left' hfirst
  | succ i =>
    rw [Nat.mul_succ, Nat.add_comm, ← hfirst, List.drop_length_add_append, hfirst]
    exact hfloat i (Nat.lt_of_succ_lt_succ hi)

/-- A fraction stream of one float more starts with the three bytes of a float. -/
theorem exists_three_cons (h : a.length = 3 * (n + 1)) :
    ∃ b0 b1 b2 rest, a = b0 :: b1 :: b2 :: rest ∧ rest.length = 3 * n := by
  match a, h with
  | b0 :: b1 :: b2 :: rest, h => exact ⟨b0, b1, b2, rest, rfl, Nat.add_right_cancel (m := 3) h⟩

theorem rejoin2Floats_holdsFloats (h : a.length = 3 * e.length) :
    HoldsFloats e.length (fun i => join2 (a.getD (3 * i) 0) (a.getD (3 * i + 1) 0)
      (a.getD (3 * i + 2) 0) (e.getD i 0)) (rejoin2Floats a e) := by
  induction e generalizing a with
  | nil =>
    obtain rfl := List.eq_nil_of_length_eq_zero h
    exact holdsFloats_nil
  | cons x e ih =>
    obtain ⟨b0, b1, b2, rest, rfl, hrest⟩ := exists_three_cons h
    exact (ih hrest).cons rfl

theorem rejoin3Floats_holdsFloats (ha : a.length = 3 * e.length) (hg : g.length = e.length) :
    HoldsFloats e.length (fun i => join3 (a.getD (3 * i) 0) (a.getD (3 * i + 1) 0)
      (a.getD (3 * i + 2) 0) (e.getD i 0) (g.getD i 0)) (rejoin3Floats a e g) := by
  induction e generalizing a g with
  | nil =>
    obtain rfl := List.eq_nil_of_length_eq_zero ha
    exact holdsFloats_nil
  | cons x e ih =>
    obtain ⟨f0, f1, f2, rest, rfl, hrest⟩ := exists_three_cons ha
    obtain ⟨sgn, signs, rfl⟩ := List.exists_cons_of_length_eq_add_one hg
    exact (ih hrest (Nat.succ.inj hg)).cons rfl

end Streams

/-- Settles O42: a length mismatch is the error, and without one the loop holds every float. -/
theorem rejoinFunctions : Obligations.RejoinFunctions :=
  ⟨fun _ _ => ⟨fun h => if_neg h, fun h => ⟨_, if_pos h, rejoin2Floats_holdsFloats h⟩⟩,
    fun _ _ _ => ⟨fun h => if_neg h,
      fun ha hg => ⟨_, if_pos ⟨ha, hg⟩, rejoin3Floats_holdsFloats ha hg⟩⟩⟩

end Sys2Proof.Proofs

/-! PROOFS. What holds of every command: the power-on state, NOP, the refusals of the error state, and
that each step completes (10_state.md R41; 47_orchestrator.md R260; 60_exceptions.md R281, R290;
70_reset_and_hazards.md R311, R332). -/

namespace Sys2Proof.Proofs

open Sys2Proof Sys2Proof.Machine Sys2Proof.Certificates

/-! ### Reset and NOP -/

/-- Settles O13: the fields of `State.reset`, one by one. -/
theorem powerOnState : Obligations.PowerOnState :=
  ⟨rfl, rfl, rfl, rfl, rfl, rfl, rfl, rfl, rfl, rfl, rfl, rfl, rfl, rfl, rfl, rfl, by decide, by decide⟩

/-- Settles O7: NOP uses no bit of its operand field, so any bit set there makes the word illegal; ERR
decides what the raise does. -/
theorem nopMeaning : Obligations.NopMeaning := by
  refine ⟨fun _ => rfl, fun s arg port harg hp => ?_⟩
  have hset : arg.toNat / 2 ^ 0 ≠ 0 := fun h => harg (eq_zero_of_reserved_zero h).symm
  have hd : decodeCommand (commandWord 0x00 arg) = .error .reservedBits :=
    decodeCommand_reserved rfl hset
  exact ⟨fun he => (step_illegal hp hd).trans (congrArg _ (takeError_eq_stopped .protocol [] he)),
    fun he => (step_illegal hp hd).trans (congrArg _ (takeError_latched he))⟩

/-! ### The error state -/

section ErrorState

variable {s : State} {i : Instr}

/-- Both beats of an escape are refused (R281; log 2). -/
theorem rleBeats_sentinel_refused (c : Byte) (he : s.err ≠ 0) :
    rleBeats Config.sentinel c s = answered s 0 [] := by
  rw [rleBeats_sentinel, rleBeat_refused he]
  exact rleBeat_refused (s := refuse s) he

/-- R281: all but three instructions are refused in the error state. -/
theorem refusedIn_of_ne (hnop : i ≠ .nop) (hrdreg : ∀ r, i ≠ .rdreg r) (hreset : i ≠ .reset) :
    refusedIn i s := by
  cases i with
  | nop => exact absurd rfl hnop
  | rdreg r => exact absurd rfl (hrdreg r)
  | reset => exact absurd rfl hreset
  | hdrParse0 | hdrParse1 | hdrParse2 => exact hdrParse_refused
  | chainScan => exact execChainScan_refused
  | decode => exact decodeWith_refused
  | escLit => exact fun he => congrArg _ (rleBeats_sentinel_refused 0x00 he)
  | escRun count index =>
    exact fun he => congrArg _ (rleBeats_sentinel_refused (runByte count index) he)
  | ksLoad | ksStep | decStart | decByte | csClear | csByte | csVerify | rleDict | rleStart | rleByte
  | rleEnd | fj2Beat | fj3Beat | lit => exact refusedIn_of_whenReady rfl

/-- An error is latched already, so RDREG of an unassigned number does not change it (R15, R262). -/
theorem readRegister_err (r : BitVec 8) (he : s.err ≠ 0) : (readRegister r s).err = s.err := by
  obtain ⟨-, h⟩ | ⟨_, _, -, -, h⟩ | ⟨_, _, -, -, h⟩ := readRegister_cases r s <;> rw [h]
  · rw [takeError_latched he]
  · rfl
  · rfl

end ErrorState

/-- Settles O14: the two commands that are accepted leave ERR alone, and the rest are refused. -/
theorem errorStateRefuses : Obligations.ErrorStateRefuses := by
  intro i s he hreset
  refine ⟨fun hnop hrdreg => refusedIn_of_ne hnop hrdreg hreset he, ?_⟩
  by_cases hnop : i = .nop
  · exact ⟨respond 0 [] s, by rw [hnop]; rfl, rfl⟩
  by_cases hrdreg : ∃ r, i = .rdreg r
  · obtain ⟨r, rfl⟩ := hrdreg
    exact ⟨_, rfl, readRegister_err r he⟩
  · exact ⟨_, refusedIn_of_ne hnop (not_exists.mp hrdreg) hreset he, rfl⟩

/-! ### Completion -/

section Completion

variable {s : State}

theorem completes_hdrParse (f : Fin 3) (off : Word64) : Completes (hdrParse f off s) := by
  by_cases he : s.err = 0
  · obtain ⟨c, hc⟩ := headerAt_answers Config.magic s.free f s.inp s.blen.toNat off.toNat
    exact ⟨_, hdrParse_ready he hc⟩
  · exact ⟨_, hdrParse_refused he⟩

theorem completes_execChainScan (m : Byte) : Completes (execChainScan m s) := by
  by_cases he : s.err = 0
  case neg => exact ⟨_, execChainScan_refused he⟩
  by_cases hm : m.toNat < 1 ∨ 3 < m.toNat
  · exact ⟨_, execChainScan_badBound he hm⟩
  obtain ⟨h1, h3⟩ := not_or.mp hm
  cases hc : analyzeChain Config.magic s.free s.inp s.blen.toNat m.toNat with
  | error stop => exact ⟨_, execChainScan_badChain he (Nat.not_lt.mp h1) (Nat.not_lt.mp h3) hc⟩
  | ok frames => exact ⟨_, execChainScan_accepted he (Nat.not_lt.mp h1) (Nat.not_lt.mp h3) hc⟩

theorem completes_decodeWith (te : TrailingEscape) (max : Nat) (key : Word16) :
    Completes (decodeWith te max key s) := by
  by_cases he : s.err = 0
  case neg => exact ⟨_, decodeWith_refused he⟩
  rw [decodeWith_ready he]
  obtain ⟨_, _, -, hrun, -⟩ | ⟨_, _, -, hrun, -⟩ := runDecode_of_decode te max key (beginDecode s)
  · exact ⟨_, hrun⟩
  · exact ⟨_, hrun⟩

/-- The three instructions that read IN never read outside it; the others have no other outcome. -/
theorem completes_exec (i : Instr) : Completes (exec i s) := by
  cases i with
  | hdrParse0 off => exact completes_hdrParse 0 off
  | hdrParse1 off => exact completes_hdrParse 1 off
  | hdrParse2 off => exact completes_hdrParse 2 off
  | chainScan m => exact completes_execChainScan m
  | decode key => exact completes_decodeWith _ _ key
  | nop | rdreg | reset | ksLoad | ksStep | decStart | decByte | csClear | csByte | csVerify | rleDict
  | rleStart | rleByte | rleEnd | fj2Beat | fj3Beat | lit | escLit | escRun => exact ⟨_, rfl⟩

end Completion

/-- Settles O59: whatever stands at the front of the port, the step is an instruction's or no more than a
raise or a change of the port. -/
theorem stepAlwaysCompletes : Obligations.StepAlwaysCompletes := by
  intro s
  obtain ⟨-, hf⟩ | ⟨_, _, i, -, -, hf⟩ | ⟨_, _, _, -, -, hf⟩ | ⟨_, -, hf⟩ |
    ⟨_, _, _, i, _, -, -, hf⟩ | ⟨b, _, _, _, -, -, hf⟩ := fetch_cases s <;> simp only [step, hf]
  · exact ⟨_, rfl⟩
  · exact completes_exec i
  · exact ⟨_, rfl⟩
  · exact ⟨_, rfl⟩
  · exact completes_exec i
  · exact completes_exec (.rleByte b)

end Sys2Proof.Proofs

/-! PROOFS. One frame: its stages in their order, and the errors a decode can end with
(47_orchestrator.md R253 to R255; 44_decompressor.md R191, R192). -/

namespace Sys2Proof.Proofs

open Sys2Proof Sys2Proof.Machine

/-! ### Each stage by what it answers -/

section Stages

variable {te : TrailingEscape} {inp : Memory} {blen : Nat} {key : Word16} {c : StreamCfg}
  {d : List Byte}

theorem checksumStage_fails (hk : c.cks = true) (hs : checksum d ≠ c.sum) :
    checksumStage c d = .error (.raised .integrity) := by simp [checksumStage, hk, hs]

theorem checksumStage_passes (h : c.cks = true → checksum d = c.sum) : checksumStage c d = .ok d := by
  cases hk : c.cks with
  | false => simp [checksumStage, hk]
  | true => simp [checksumStage, h hk]

theorem decompressStage_skipped (h : c.comp = false) : decompressStage te c d = .ok d := by
  simp [decompressStage, h]

theorem decompressStage_fails {e : Error} (h : c.comp = true)
    (hr : (decompress te d c.dict (16 * c.stored.toNat)).2 = some e) :
    decompressStage te c d = .error (.raised e) := by
  unfold decompressStage
  rw [if_pos h]
  generalize decompress te d c.dict (16 * c.stored.toNat) = run at hr ⊢
  obtain ⟨out, status⟩ := run
  obtain rfl : status = some e := hr
  rfl

theorem decompressStage_passes (h : c.comp = true)
    (hr : (decompress te d c.dict (16 * c.stored.toNat)).2 = none) :
    decompressStage te c d = .ok (decompress te d c.dict (16 * c.stored.toNat)).1 := by
  unfold decompressStage
  rw [if_pos h]
  generalize decompress te d c.dict (16 * c.stored.toNat) = run at hr ⊢
  obtain ⟨out, status⟩ := run
  obtain rfl : status = none := hr
  rfl

theorem lengthStage_passes (h : d.length = c.orig.toNat) : lengthStage c d = .ok d := if_pos h

theorem lengthStage_fails (h : d.length ≠ c.orig.toNat) :
    lengthStage c d = .error (.raised .sizeMismatch) := if_neg h

/-- R253: the stages of a frame inside IN, each on what the one before it passes on. -/
theorem decodeFrame_inside (hc : c.doff.toNat + c.stored.toNat ≤ blen) :
    decodeFrame te inp blen key c =
      (checksumStage c (inp.readRange c.doff.toNat c.stored.toNat)).bind fun d =>
        (decompressStage te c (decryptStage c key d)).bind (lengthStage c) := by
  simp only [decodeFrame, memRead_inside (inp := inp) (.inr hc)]
  cases checksumStage c (inp.readRange c.doff.toNat c.stored.toNat) with
  | error stop => rfl
  | ok d =>
    show _ = (decompressStage te c (decryptStage c key d)).bind (lengthStage c)
    cases h : decompressStage te c (decryptStage c key d) <;> simp only [h] <;> rfl

end Stages

/-- Settles O52: the first stage that fails gives the error of `decodeFrame_inside`. -/
theorem decodeFrameStages : Obligations.DecodeFrameStages := by
  intro te inp blen key c hc raw plain run frame
  have hframe : frame = (checksumStage c raw).bind fun d =>
      (decompressStage te c (decryptStage c key d)).bind (lengthStage c) := decodeFrame_inside hc
  refine ⟨fun hk hs => ?_, fun hsum => ?_⟩
  · rw [hframe, checksumStage_fails hk hs]
    rfl
  have hpassed : frame = (decompressStage te c plain).bind (lengthStage c) := by
    rw [hframe, checksumStage_passes hsum]
    rfl
  have hwhole (h : c.comp = false) : frame = lengthStage c plain := by
    rw [hpassed, decompressStage_skipped h]
    rfl
  have hrun (h : c.comp = true) (hr : run.2 = none) : frame = lengthStage c run.1 := by
    rw [hpassed, decompressStage_passes h hr]
    rfl
  refine ⟨fun h hl => (hwhole h).trans (lengthStage_passes hl),
    fun h hl => (hwhole h).trans (lengthStage_fails hl), fun h e hr => ?_,
    fun h hr hl => (hrun h hr).trans (lengthStage_passes hl),
    fun h hr hl => (hrun h hr).trans (lengthStage_fails hl)⟩
  rw [hpassed, decompressStage_fails h hr]
  rfl

/-! ### The errors of a decode -/

section Errors

variable {magic : Magic} {te : TrailingEscape} {inp : Memory} {blen : Nat} {key : Word16}
  {stop : Stop} {e : Error}

/-- The only error of a scan without a capacity is that of a lone trailing sentinel (R192). -/
theorem scan_error {dict : Vector Byte 16} {esc : Bool} {input : List Byte}
    (h : (scan te dict esc input).2 = some e) : e = .truncatedEscape := by
  induction input generalizing esc with
  | nil =>
    cases esc with
    | false => cases h
    | true =>
      cases te with
      | error => exact (Option.some.inj h).symm
      | literal => cases h
  | cons b rest ih =>
    cases esc with
    | true => exact ih h
    | false =>
      by_cases hb : b = Config.sentinel
      · rw [hb, scan_sentinel] at h
        exact ih h
      · rw [scan_literal hb] at h
        exact ih h

/-- R255: 16 bytes of capacity for each byte of input are never exceeded. -/
theorem decompress_error {dict : Vector Byte 16} {input : List Byte} {cap : Nat}
    (hcap : 16 * input.length ≤ cap) (h : (decompress te input dict cap).2 = some e) :
    e = .truncatedEscape := by
  have hscan := scan_length_le te dict false input
  have hexpand := expansion_le input.length
  rw [decompress_eq_limit, limit_of_le (hscan.trans (hexpand.trans hcap))] at h
  exact scan_error h

theorem decryptStage_length (c : StreamCfg) (key : Word16) (d : List Byte) :
    (decryptStage c key d).length = d.length := by
  unfold decryptStage
  split
  · rw [decrypt_eq_xorPad, xorPad_length]
  · rfl

/-- The decompressor's stage on as many bytes as the frame stores. -/
theorem decompressStage_error_eq {c : StreamCfg} {d : List Byte} (hd : d.length = c.stored.toNat)
    (h : decompressStage te c d = .error stop) : stop = .raised .truncatedEscape := by
  cases hcomp : c.comp with
  | false =>
    rw [decompressStage_skipped hcomp] at h
    cases h
  | true =>
    cases hr : (decompress te d c.dict (16 * c.stored.toNat)).2 with
    | none =>
      rw [decompressStage_passes hcomp hr] at h
      cases h
    | some e =>
      rw [decompressStage_fails hcomp hr] at h
      rw [← Except.error.inj h, decompress_error (by rw [hd]) hr]

theorem decodeFrame_error {c : StreamCfg} (hc : c.doff.toNat + c.stored.toNat ≤ blen)
    (h : decodeFrame te inp blen key c = .error stop) :
    stop = .raised .integrity ∨ stop = .raised .truncatedEscape ∨ stop = .raised .sizeMismatch := by
  rw [decodeFrame_inside hc] at h
  have hlen : (inp.readRange c.doff.toNat c.stored.toNat).length = c.stored.toNat :=
    readRange_length ..
  generalize inp.readRange c.doff.toNat c.stored.toNat = raw at h hlen
  by_cases hsum : c.cks = true → checksum raw = c.sum
  case neg =>
    obtain ⟨hk, hs⟩ := Classical.not_imp.mp hsum
    rw [checksumStage_fails hk hs] at h
    exact .inl (Except.error.inj h).symm
  rw [checksumStage_passes hsum] at h
  change (decompressStage te c (decryptStage c key raw)).bind (lengthStage c) = .error stop at h
  cases hrle : decompressStage te c (decryptStage c key raw) with
  | error stop' =>
    rw [hrle] at h
    obtain rfl : stop' = stop := Except.error.inj h
    exact .inr (.inl (decompressStage_error_eq ((decryptStage_length c key raw).trans hlen) hrle))
  | ok d =>
    rw [hrle] at h
    exact .inr (.inr (lengthStage_error h))

/-- The work on the frames fails as one of them does (R251). -/
theorem decodeFrames_error_of_frame {frames : List StreamCfg}
    (h : decodeFrames te inp blen key frames = .error stop) :
    ∃ c ∈ frames, decodeFrame te inp blen key c = .error stop := by
  induction frames with
  | nil => cases h
  | cons c cs ih =>
    cases hc : decodeFrame te inp blen key c with
    | error stop' =>
      simp only [decodeFrames, hc] at h
      obtain rfl := Except.error.inj h
      exact ⟨c, List.mem_cons_self, hc⟩
    | ok d =>
      cases hcs : decodeFrames te inp blen key cs with
      | error stop' =>
        simp only [decodeFrames, hc, hcs] at h
        obtain ⟨b, hb, hfail⟩ := ih (hcs.trans h)
        exact ⟨b, List.mem_cons_of_mem _ hb, hfail⟩
      | ok ds =>
        rw [decodeFrames_cons hc hcs] at h
        cases h

/-- The rejoiner's error, and the guard for a number of streams no chain has (R219, R256). -/
theorem combine_error {streams : List (List Byte)} (h : combine streams = .error stop) :
    stop = .raised .rejoinLength ∨ stop = .raised .format := by
  unfold combine at h
  split at h
  · cases h
  · exact .inl (rejoin2_error h)
  · exact .inl (rejoin3_error h)
  · exact .inr (Except.error.inj h).symm

end Errors

/-- Settles O54: the error is the chain's, a frame's or the rejoiner's. -/
theorem decodeErrorsPossible : Obligations.DecodeErrorsPossible := by
  intro magic te draw blen max inp key stop hb _ h
  cases hc : analyzeChain magic draw inp blen max with
  | error stop' =>
    rw [decode_of_chain_error hc] at h
    exact .inl ((Except.error.inj h).symm.trans (analyzeChain_error hc))
  | ok frames =>
    cases hf : decodeFrames te inp blen key frames with
    | error stop' =>
      rw [decode_of_frame_error hc hf] at h
      obtain rfl := Except.error.inj h
      obtain ⟨c, hmem, hfail⟩ := decodeFrames_error_of_frame hf
      obtain h | h | h := decodeFrame_error (analyzeChain_data_inside hb hc c hmem) hfail
      · exact .inr (.inl h)
      · exact .inr (.inr (.inl h))
      · exact .inr (.inr (.inr (.inl h)))
    | ok streams =>
      rw [decode_of_streams hc hf] at h
      obtain h | h := combine_error h
      · exact .inr (.inr (.inr (.inr h)))
      · exact .inl h

end Sys2Proof.Proofs

/-! PROOFS. How a DECODE ends, and that it depends on IN, BLEN and the key alone (47_orchestrator.md R250
to R258; 60_exceptions.md R284; 70_reset_and_hazards.md R313). -/

namespace Sys2Proof.Proofs

open Sys2Proof Sys2Proof.Machine

/-! ### The records a DECODE leaves -/

section Scan

variable {te : TrailingEscape} {max : Nat} {key : Word16} {s t : State} {frames : List StreamCfg}

/-- What a scan has recorded stays to the end of the command, whatever the frames then do (R258). -/
theorem runDecode_of_chain
    (hc : analyzeChain Config.magic s.free s.inp s.blen.toNat max = .ok frames)
    (h : runDecode te max key s = .next t) :
    t.scanv = true ∧ t.nfr = BitVec.ofNat 2 frames.length ∧ t.cfg = scannedCfg frames s.cfg := by
  cases hf : decodeFrames te s.inp s.blen.toNat key frames with
  | error stop =>
    rw [runDecode_frame_error hc hf] at h
    obtain ⟨e, rfl⟩ := failDecode_next h
    exact ⟨rfl, rfl, rfl⟩
  | ok streams =>
    cases hj : combine streams with
    | error stop =>
      rw [runDecode_rejoin_error hc hf hj] at h
      obtain ⟨e, rfl⟩ := failDecode_next h
      exact ⟨rfl, rfl, rfl⟩
    | ok bytes =>
      rw [runDecode_ok hc hf hj] at h
      obtain rfl := Host.Outcome.next.inj h
      exact ⟨rfl, rfl, rfl⟩

end Scan

/-- Settles O51: `runDecode_of_chain` where there is a chain; without one the records are free values. -/
theorem decodeLeavesScan : Obligations.DecodeLeavesScan := by
  intro s t key he h chain
  rw [exec_decode_ready he] at h
  refine ⟨fun frames hc => ?_, fun stop hc => ?_⟩
  · obtain ⟨hscan, hnfr, hcfg⟩ := runDecode_of_chain (s := beginDecode s) hc h
    have hlen := analyzeChain_length hc
    refine ⟨hscan, ?_, hcfg ▸ scannedCfg_records frames s.cfg⟩
    rw [hnfr, BitVec.toNat_ofNat]
    omega
  · rw [runDecode_chain_error (s := beginDecode s) hc] at h
    obtain rfl := Host.Outcome.next.inj h
    exact ⟨rfl, rfl, recordNoScan_shortSum (beginDecode s)⟩

/-! ### The order of the errors -/

section Order

variable {te : TrailingEscape} {max : Nat} {key : Word16} {s t : State}

/-- An error of the function is the command's, with OUT untouched and nothing owed (R257, R258). -/
theorem decodeWith_fails {e : Error} (he : s.err = 0)
    (h : decode Config.magic te max s.free s.inp s.blen.toNat key = .error (.raised e)) :
    ∃ t, decodeWith te max key s = .next t ∧
      t.err = e.code ∧ t.outv = false ∧ t.olen = 0 ∧ t.out = s.out := by
  rw [decodeWith_ready he]
  obtain ⟨_, _, hdec, -⟩ | ⟨e', u, hdec, hrun, hu⟩ := runDecode_of_decode te max key (beginDecode s)
  · cases hdec.symm.trans h
  · obtain rfl : e' = e := Stop.raised.inj (Except.error.inj (hdec.symm.trans h))
    have herr : (endDecode u).err = 0 := hu.err.trans he
    rw [takeError_ready herr] at hrun
    exact ⟨_, hrun, rfl, hu.outv, hu.olen, hu.out⟩

/-- The bytes the function answers are what the command writes (R257, R258). -/
theorem decodeWith_writes {bytes : List Byte} (he : s.err = 0)
    (h : decode Config.magic te max s.free s.inp s.blen.toNat key = .ok bytes) :
    ∃ t, decodeWith te max key s = .next t ∧
      t.err = 0 ∧ t.outv = true ∧ t.out = Memory.writeBytes [] 0 bytes ∧
      (bytes.length < 2 ^ 64 → t.olen.toNat = bytes.length ∧ t.output = some bytes) := by
  rw [decodeWith_ready he]
  obtain ⟨bytes', u, hdec, hrun, -, hu⟩ | ⟨_, _, hdec, -⟩ :=
    runDecode_of_decode te max key (beginDecode s)
  · obtain rfl : bytes' = bytes := Except.ok.inj (hdec.symm.trans h)
    exact ⟨_, hrun, hu.err.trans he, rfl, rfl, finishDecode_output u⟩
  · cases hdec.symm.trans h

/-- The command has these two ends and no other. -/
theorem decodeWith_ends (he : s.err = 0) (h : decodeWith te max key s = .next t) :
    (∃ bytes, decode Config.magic te max s.free s.inp s.blen.toNat key = .ok bytes ∧
      t.err = 0 ∧ t.outv = true ∧ t.out = Memory.writeBytes [] 0 bytes ∧
      (bytes.length < 2 ^ 64 → t.olen.toNat = bytes.length ∧ t.output = some bytes)) ∨
    (∃ e, decode Config.magic te max s.free s.inp s.blen.toNat key = .error (.raised e) ∧
      t.err = e.code ∧ t.outv = false ∧ t.olen = 0 ∧ t.out = s.out) := by
  obtain ⟨bytes, _, hdec, -⟩ | ⟨e, _, hdec, -⟩ := runDecode_of_decode te max key (beginDecode s)
  · obtain ⟨_, hrun, hend⟩ := decodeWith_writes he hdec
    obtain rfl := Host.Outcome.next.inj (h.symm.trans hrun)
    exact .inl ⟨bytes, hdec, hend⟩
  · obtain ⟨_, hrun, hend⟩ := decodeWith_fails he hdec
    obtain rfl := Host.Outcome.next.inj (h.symm.trans hrun)
    exact .inr ⟨e, hdec, hend⟩

end Order

/-- Settles O53: each clause says which stage ends `decode`, and the command ends as that does. -/
theorem decodeErrorOrder : Obligations.DecodeErrorOrder := by
  refine ⟨fun _ _ => rfl, ?_⟩
  intro te max s key he chain frame fails writes ends
  have hends {result : Except Stop (List Byte)}
      (hdec : decode Config.magic te max s.free s.inp s.blen.toNat key = result)
      (herr : ∀ stop, result = .error stop → stop = .raised .rejoinLength) : ends result := by
    refine ⟨fun stop h => ?_, fun bytes h => decodeWith_writes he (hdec.trans h)⟩
    exact decodeWith_fails he (e := .rejoinLength) (herr stop h ▸ hdec.trans h)
  refine ⟨fun stop hc => ?_, fun pre c post e hc hpre hfail => ?_, fun c b hc h => ?_,
    fun c₀ c₁ b₀ b₁ hc h₀ h₁ => ?_, fun c₀ c₁ c₂ b₀ b₁ b₂ hc h₀ h₁ h₂ => ?_⟩
  · exact decodeWith_fails he (e := .format) (analyzeChain_error hc ▸ decode_of_chain_error hc)
  · exact decodeWith_fails he (decode_of_frame_error hc (decodeFrames_error hpre hfail))
  · exact decodeWith_writes he (decode_of_streams hc (decodeFrames_cons h rfl))
  · exact hends (decode_of_streams hc (decodeFrames_cons h₀ (decodeFrames_cons h₁ rfl)))
      fun _ => rejoin2_error
  · exact hends (decode_of_streams hc
      (decodeFrames_cons h₀ (decodeFrames_cons h₁ (decodeFrames_cons h₂ rfl))))
      fun _ => rejoin3_error

/-! ### Free values do not matter

The draw of free values differs with the history of the machine; it reaches only the fields SUM and DICT that
a header does not have (log 7) and a DOFF that no accepted frame has (log 10). -/

/-- Two records that are one parsed header, but for SUM and DICT where the flags say it has none. -/
structure SameHeader (c d : StreamCfg) : Prop where
  valid : c.valid = d.valid
  hlen : c.hlen = d.hlen
  flags : c.flags = d.flags
  orig : c.orig = d.orig
  stored : c.stored = d.stored
  sum : c.cks = true → c.sum = d.sum
  dict : c.comp = true → c.dict = d.dict

/-- Two such records of one place in IN. -/
structure SameRecord (c d : StreamCfg) : Prop extends SameHeader c d where
  off : c.off = d.off
  doff : c.doff = d.doff

section Draw

variable {magic : Magic} {te : TrailingEscape} {draw draw' f off room max blen : Nat} {inp : Memory}
  {key : Word16} {c d : StreamCfg} {frames frames' : List StreamCfg}

/-- R128: what O46 says of a valid header names every field from the bytes alone. -/
theorem parseHeader_sameHeader {bytes : List Byte} {length : Nat} (draw' : Nat)
    (hv : (parseHeader magic draw f bytes length).valid = true) :
    SameHeader (parseHeader magic draw f bytes length) (parseHeader magic draw' f bytes length) := by
  obtain ⟨hl, h0, h1, h2⟩ := parseHeader_valid hv
  obtain ⟨hiff, hfields, -⟩ := parseHeaderFields magic draw f length bytes hl h0 h1 h2
  obtain ⟨hiff', hfields', -⟩ := parseHeaderFields magic draw' f length bytes hl h0 h1 h2
  have hv' := hiff'.mpr (hiff.mp hv)
  obtain ⟨hlen, hflags, horig, hstored, hdict, hsum⟩ := hfields hv
  obtain ⟨hlen', hflags', horig', hstored', hdict', hsum'⟩ := hfields' hv'
  have hbyte : (parseHeader magic draw f bytes length).flags = flagsOfByte (bytes.getD 3 0) :=
    BitVec.eq_of_toNat_eq (hflags.trans (flagsOfByte_toNat _).symm)
  refine ⟨hv.trans hv'.symm, BitVec.eq_of_toNat_eq (hlen.trans hlen'.symm),
    BitVec.eq_of_toNat_eq (hflags.trans hflags'.symm), BitVec.eq_of_toNat_eq (horig.trans horig'.symm),
    BitVec.eq_of_toNat_eq (hstored.trans hstored'.symm), fun hk => ?_, fun hc => ?_⟩
  · rw [StreamCfg.cks, hbyte, flagsOfByte_getLsbD] at hk
    exact BitVec.eq_of_toNat_eq ((hsum hk).trans (hsum' hk).symm)
  · rw [StreamCfg.comp, hbyte, flagsOfByte_getLsbD] at hc
    exact Vector.ext fun i hi => (hdict hc ⟨i, hi⟩).trans (hdict' hc ⟨i, hi⟩).symm

theorem headerAt_sameHeader (h : headerAt magic draw f inp blen off = .ok c)
    (h' : headerAt magic draw' f inp blen off = .ok d) (hv : c.valid = true) : SameHeader c d := by
  rw [headerAt_eq] at h h'
  obtain rfl := Except.ok.inj h
  obtain rfl := Except.ok.inj h'
  obtain ⟨hvalid, hhlen, hflags, horig, hstored, hsum, hdict⟩ := parseHeader_sameHeader draw' hv
  exact ⟨hvalid, hhlen, hflags, horig, hstored, hsum, hdict⟩

/-- A frame that the walk accepts has a DOFF that fits its register. -/
theorem headerAt_sameRecord (hb : blen < 2 ^ 64) (h : headerAt magic draw f inp blen off = .ok c)
    (h' : headerAt magic draw' f inp blen off = .ok d) (hv : c.valid = true)
    (hend : dataOffset off c + c.stored.toNat ≤ blen) : SameRecord c d := by
  have hheader := headerAt_sameHeader h h' hv
  have hoffset : dataOffset off d = dataOffset off c := by rw [dataOffset, dataOffset, hheader.hlen]
  have hdoff : c.doff.toNat = d.doff.toNat := by
    rw [headerAt_doff h (by omega), headerAt_doff h' (by omega), hoffset]
  exact { hheader with
    off := (headerAt_facts h).1.trans (headerAt_facts h').1.symm
    doff := BitVec.eq_of_toNat_eq hdoff }

theorem chainFrom_sameRecords (draw' : Nat) (hb : blen < 2 ^ 64)
    (h : chainFrom magic draw inp blen room f off = .ok frames) :
    ∃ frames', chainFrom magic draw' inp blen room f off = .ok frames' ∧
      List.Forall₂ SameRecord frames frames' := by
  induction room generalizing f off frames with
  | zero => simp [chainFrom] at h
  | succ room ih =>
    obtain ⟨room', c, hroom, hc, hv, hend, hrest⟩ := chainFrom_ok h
    obtain rfl := Nat.succ.inj hroom
    obtain ⟨d, hd⟩ := headerAt_answers magic draw' f inp blen off
    have hsame := headerAt_sameRecord hb hc hd hv hend
    have hv' : d.valid = true := hsame.valid ▸ hv
    have hnext : dataOffset off d + d.stored.toNat = dataOffset off c + c.stored.toNat := by
      rw [dataOffset, dataOffset, hsame.hlen, hsame.stored]
    have hcont : d.cont = c.cont := by rw [StreamCfg.cont, StreamCfg.cont, hsame.flags]
    have hflt : d.flt = c.flt := by rw [StreamCfg.flt, StreamCfg.flt, hsame.flags]
    rw [← hnext] at hend hrest
    obtain ⟨hc0, rfl⟩ | ⟨hc1, hf1, hroom, hinside, cs, hcs, rfl⟩ := hrest
    · exact ⟨[d], chainFrom_last hd hv' hend (hcont.trans hc0), .cons hsame .nil⟩
    · obtain ⟨ds, hds, hsames⟩ := ih hcs
      exact ⟨d :: ds, chainFrom_next hd hv' hend (hcont.trans hc1) (hflt.trans hf1) hroom hinside hds,
        .cons hsame hsames⟩

theorem flagsConsistent_sameRecords (h : List.Forall₂ SameRecord frames frames') :
    flagsConsistent frames = flagsConsistent frames' := by
  have hflags : frames.map StreamCfg.flags = frames'.map StreamCfg.flags := by
    induction h with
    | nil => rfl
    | cons hsame _ ih => rw [List.map_cons, List.map_cons, hsame.flags, ih]
  have hall (p : BitVec 8 → Bool) :
      (frames.all fun c => p c.flags) = frames'.all fun c => p c.flags := by
    simpa only [List.all_map, Function.comp_def] using congrArg (List.all · p) hflags
  unfold flagsConsistent
  rw [h.length_eq]
  split
  · rfl
  · exact hall fun flags => flags.getLsbD 3 && !flags.getLsbD 2
  · exact hall fun flags => flags.getLsbD 3 && flags.getLsbD 2
  · rfl

/-- A chain is accepted at every draw or at none, with the same records. -/
theorem analyzeChain_sameRecords (draw' : Nat) (hb : blen < 2 ^ 64)
    (h : analyzeChain magic draw inp blen max = .ok frames) :
    ∃ frames', analyzeChain magic draw' inp blen max = .ok frames' ∧
      List.Forall₂ SameRecord frames frames' := by
  obtain ⟨hchain, hflags⟩ := analyzeChain_ok h
  obtain ⟨frames', hchain', hsame⟩ := chainFrom_sameRecords draw' hb hchain
  exact ⟨frames', analyzeChain_accepts hchain' (flagsConsistent_sameRecords hsame ▸ hflags), hsame⟩

theorem analyzeChain_error_draw {stop : Stop} (draw' : Nat) (hb : blen < 2 ^ 64)
    (h : analyzeChain magic draw inp blen max = .error stop) :
    analyzeChain magic draw' inp blen max = .error stop := by
  cases h' : analyzeChain magic draw' inp blen max with
  | error stop' => rw [analyzeChain_error h, analyzeChain_error h']
  | ok frames =>
    obtain ⟨frames', hok, -⟩ := analyzeChain_sameRecords draw hb h'
    cases h.symm.trans hok

/-- No stage of a frame looks at what its header does not have (R253). -/
theorem decodeFrame_sameRecord (h : SameRecord c d) :
    decodeFrame te inp blen key c = decodeFrame te inp blen key d := by
  have hcks : c.cks = d.cks := by rw [StreamCfg.cks, StreamCfg.cks, h.flags]
  have henc : c.enc = d.enc := by rw [StreamCfg.enc, StreamCfg.enc, h.flags]
  have hcomp : c.comp = d.comp := by rw [StreamCfg.comp, StreamCfg.comp, h.flags]
  have hsum : checksumStage c = checksumStage d := by
    funext raw
    unfold checksumStage
    cases hk : c.cks with
    | false => rw [← hcks, hk]; rfl
    | true => rw [← hcks, hk, h.sum hk]
  have hcrypt : decryptStage c key = decryptStage d key := by
    funext raw
    rw [decryptStage, decryptStage, henc]
  have hrle : decompressStage te c = decompressStage te d := by
    funext raw
    cases hc : c.comp with
    | false => rw [decompressStage_skipped hc, decompressStage_skipped (hcomp ▸ hc)]
    | true => rw [decompressStage, decompressStage, ← hcomp, h.dict hc, h.stored]
  have hlen : lengthStage c = lengthStage d := by
    funext raw
    rw [lengthStage, lengthStage, h.orig]
  rw [decodeFrame, decodeFrame, h.doff, h.stored, hsum, hcrypt, hrle, hlen]

theorem decodeFrames_sameRecords (h : List.Forall₂ SameRecord frames frames') :
    decodeFrames te inp blen key frames = decodeFrames te inp blen key frames' := by
  induction h with
  | nil => rfl
  | cons hsame _ ih => rw [decodeFrames, decodeFrames, decodeFrame_sameRecord hsame, ih]

/-- R313: the function's result is the same at every draw. -/
theorem decode_draw (draw draw' : Nat) (hb : blen < 2 ^ 64) :
    decode magic te max draw inp blen key = decode magic te max draw' inp blen key := by
  cases hc : analyzeChain magic draw inp blen max with
  | error stop =>
    rw [decode_of_chain_error hc, decode_of_chain_error (analyzeChain_error_draw draw' hb hc)]
  | ok frames =>
    obtain ⟨frames', hc', hsame⟩ := analyzeChain_sameRecords draw' hb hc
    simp only [decode, hc, hc', decodeFrames_sameRecords hsame]

end Draw

/-! ### Two commands on one input -/

section History

variable {s₁ s₂ t₁ t₂ : State} {key : Word16}

/-- Records of one slot after the two commands: both invalid, or the records of one frame. -/
theorem sameRecord_of_slots {c d : StreamCfg} (h : SameRecord c d ∨ c.valid = false ∧ d.valid = false) :
    c.valid = d.valid ∧ (c.valid = true → SameRecord c d) := by
  obtain h | ⟨hc, hd⟩ := h
  · exact ⟨h.valid, fun _ => h⟩
  · exact ⟨hc.trans hd.symm, fun hv => absurd hv (Bool.eq_false_iff.mp hc)⟩

theorem decode_scan_agrees (he₁ : s₁.err = 0) (he₂ : s₂.err = 0) (hinp : s₁.inp = s₂.inp)
    (hblen : s₁.blen = s₂.blen) (h₁ : exec (.decode key) s₁ = .next t₁)
    (h₂ : exec (.decode key) s₂ = .next t₂) :
    t₁.scanv = t₂.scanv ∧ t₁.nfr = t₂.nfr ∧ (t₁.scanv = true → ∀ f : Fin 3,
      t₁.cfg[f].valid = t₂.cfg[f].valid ∧
        (t₁.cfg[f].valid = true → SameRecord t₁.cfg[f] t₂.cfg[f])) := by
  obtain ⟨hgood₁, hbad₁⟩ := decodeLeavesScan s₁ t₁ key he₁ h₁
  obtain ⟨hgood₂, hbad₂⟩ := decodeLeavesScan s₂ t₂ key he₂ h₂
  rw [← hinp, ← hblen] at hgood₂ hbad₂
  cases hc : analyzeChain Config.magic s₁.free s₁.inp s₁.blen.toNat Config.maxStreams with
  | error stop =>
    obtain ⟨hscan₁, hnfr₁, -⟩ := hbad₁ stop hc
    obtain ⟨hscan₂, hnfr₂, -⟩ := hbad₂ stop (analyzeChain_error_draw s₂.free s₁.blen.isLt hc)
    exact ⟨hscan₁.trans hscan₂.symm, hnfr₁.trans hnfr₂.symm,
      fun h => absurd h (Bool.eq_false_iff.mp hscan₁)⟩
  | ok frames =>
    obtain ⟨frames', hc', hsame⟩ := analyzeChain_sameRecords s₂.free s₁.blen.isLt hc
    obtain ⟨hscan₁, hnfr₁, hcfg₁⟩ := hgood₁ frames hc
    obtain ⟨hscan₂, hnfr₂, hcfg₂⟩ := hgood₂ frames' hc'
    have hlen := hsame.length_eq
    refine ⟨hscan₁.trans hscan₂.symm,
      BitVec.eq_of_toNat_eq (hnfr₁.trans (hlen.trans hnfr₂.symm)), fun _ f => ?_⟩
    apply sameRecord_of_slots
    obtain ⟨hframe₁, hrest₁⟩ := hcfg₁ f
    obtain ⟨hframe₂, hrest₂⟩ := hcfg₂ f
    by_cases hf : f.val < frames.length
    · rw [hframe₁ _ (List.getElem?_eq_getElem hf), hframe₂ _ (List.getElem?_eq_getElem (hlen ▸ hf))]
      exact .inl (hsame.get hf (hlen ▸ hf))
    · have hf := Nat.not_lt.mp hf
      exact .inr ⟨(hrest₁ hf).1, (hrest₂ (hlen ▸ hf)).1⟩

theorem decode_result_agrees (he₁ : s₁.err = 0) (he₂ : s₂.err = 0) (hinp : s₁.inp = s₂.inp)
    (hblen : s₁.blen = s₂.blen) (h₁ : exec (.decode key) s₁ = .next t₁)
    (h₂ : exec (.decode key) s₂ = .next t₂) :
    t₁.err = t₂.err ∧ t₁.outv = t₂.outv ∧ (t₁.outv = true → t₁.out = t₂.out) ∧
    (t₁.outv = false → t₁.olen = t₂.olen) ∧
    ∀ bytes, decode Config.magic Config.trailingEscape Config.maxStreams s₁.free s₁.inp s₁.blen.toNat
      key = .ok bytes → bytes.length < 2 ^ 64 → t₁.olen = t₂.olen ∧ t₁.output = t₂.output := by
  have hends₁ := decodeWith_ends he₁ h₁
  have hends₂ := decodeWith_ends he₂ h₂
  rw [← hinp, ← hblen, decode_draw s₂.free s₁.free s₁.blen.isLt] at hends₂
  obtain ⟨bytes, hdec, hzero₁, houtv₁, hout₁, howed₁⟩ | ⟨e, hdec, hcode₁, houtv₁, holen₁, -⟩ := hends₁
    <;> rw [hdec] at hends₂ ⊢
  · obtain ⟨bytes', h, hzero₂, houtv₂, hout₂, howed₂⟩ | ⟨_, h, -⟩ := hends₂
    case inr => cases h
    obtain rfl := Except.ok.inj h
    refine ⟨hzero₁.trans hzero₂.symm, houtv₁.trans houtv₂.symm, fun _ => hout₁.trans hout₂.symm,
      fun h => absurd houtv₁ (Bool.eq_false_iff.mp h), fun bytes' h hfit => ?_⟩
    obtain rfl := Except.ok.inj h
    obtain ⟨holen₁, houtput₁⟩ := howed₁ hfit
    obtain ⟨holen₂, houtput₂⟩ := howed₂ hfit
    exact ⟨BitVec.eq_of_toNat_eq (holen₁.trans holen₂.symm), houtput₁.trans houtput₂.symm⟩
  · obtain ⟨_, h, -⟩ | ⟨e', h, hcode₂, houtv₂, holen₂, -⟩ := hends₂
    · cases h
    obtain rfl := Stop.raised.inj (Except.error.inj h)
    exact ⟨hcode₁.trans hcode₂.symm, houtv₁.trans houtv₂.symm,
      fun h => absurd h (Bool.eq_false_iff.mp houtv₁), fun _ => holen₁.trans holen₂.symm, nofun⟩

end History

/-- Settles O55: the results of the two commands are one result of `decode`, and their records those of one
chain, read field by field. -/
theorem decodeForgetsHistory : Obligations.DecodeForgetsHistory := by
  intro s₁ s₂ t₁ t₂ key he₁ he₂ hinp hblen h₁ h₂
  obtain ⟨herr, houtv, hout, holen, howed⟩ := decode_result_agrees he₁ he₂ hinp hblen h₁ h₂
  obtain ⟨hscan, hnfr, hcfg⟩ := decode_scan_agrees he₁ he₂ hinp hblen h₁ h₂
  refine ⟨herr, houtv, hscan, hnfr, hout, holen, howed, fun hs f => ?_⟩
  obtain ⟨hvalid, hsame⟩ := hcfg hs f
  refine ⟨hvalid, fun hv => ?_⟩
  obtain ⟨⟨-, hhlen, hflags, horig, hstored, hsum, hdict⟩, hoff, hdoff⟩ := hsame hv
  exact ⟨hhlen, hflags, horig, hstored, hoff, hdoff, hsum, hdict⟩

end Sys2Proof.Proofs
